-- ==== Sys2Proof/Word.lean ====
section
/-! DEFINITION. The two word types of the core (00_scope.md R4, R6): a byte and a 16-bit word. -/

namespace Sys2Proof

/-- A byte: 8 bits, an unsigned integer 0 to 255 unless a rule says signed (00_scope.md R6). -/
abbrev Byte := BitVec 8

/-- A word: 16 bits, an unsigned integer 0 to 65535 (00_scope.md R6). Addresses, `pc`, `sp` and the pair views are words. -/
abbrev Word := BitVec 16

end Sys2Proof
end

