-- ==== Sys2Proof/Config.lean ====
section
/-! DEFINITION. What is fixed per instance of the core (00_scope.md R5, 10_state.md R32): the open parameters RESET_STATE, STOP_LEN,
HOST_SKIP and Mem as plain data, and the one free value of the model, the answers of a memory collaborator that is not plain RAM.
A configuration stands in the field `config` of the machine's state, which no step writes, so that a claim about every state
is a claim about every configuration (notes/assumptions/4.md). -/

namespace Sys2Proof

/-- The flag register F: "four independent booleans" (10_state.md R25). Bits 3 to 0 of its byte view are not implemented
and are no field here. -/
structure Flags where
  /-- zero, bit 7 of the byte view -/
  z : Bool
  /-- subtract, bit 6 -/
  n : Bool
  /-- half-carry, bit 5 -/
  h : Bool
  /-- carry, bit 4 -/
  c : Bool
deriving DecidableEq, Repr

/-- One bus transaction (00_scope.md R9, 20_memory.md R44): a 16-bit address and one byte. -/
inductive BusEvent where
  /-- `MemRead(addr, 1)` that returned `value` -/
  | read (addr : Word) (value : Byte)
  /-- `MemWrite(addr, 1, value)` -/
  | write (addr : Word) (value : Byte)
deriving DecidableEq, Repr

/-- The configuration constant RESET_STATE (70_reset_and_hazards.md R280): a value for every register. -/
structure ResetState where
  a : Byte
  b : Byte
  c : Byte
  d : Byte
  e : Byte
  h : Byte
  l : Byte
  f : Flags
  sp : Word
  pc : Word
deriving DecidableEq, Repr

/-- The default RESET_STATE (70_reset_and_hazards.md R281): all registers zero, all flags false, SP and PC 0x0000.
DESIGN CHOICE (the spec's own, D1 and D2; notes/assumptions/3.md): unsafe for a platform with other values. -/
def ResetState.default : ResetState :=
  { a := 0x00#8, b := 0x00#8, c := 0x00#8, d := 0x00#8, e := 0x00#8, h := 0x00#8, l := 0x00#8
    f := { z := false, n := false, h := false, c := false }
    sp := 0x0000#16, pc := 0x0000#16 }

/-- STOP_LEN (48_system.md R242): 1 or 2, "any other `STOP_LEN` is `refuse`" (93_implementation_defined.md U5), which
the type does by having no other value. -/
inductive StopLen where
  | one
  | two
deriving DecidableEq, Repr

/-- The length of STOP as an addend for `pc`. -/
def StopLen.toWord : StopLen → Word
  | .one => 1#16
  | .two => 2#16

/-- A window of the address space, both ends included, in which the memory collaborator is something else than plain RAM:
ROM, an unmapped hole or a peripheral (20_memory.md R41, R45, R47). DESIGN CHOICE: notes/assumptions/2.md. -/
structure Window where
  first : Word
  last : Word
deriving DecidableEq, Repr

/-- The configuration of one instance (10_state.md R32). -/
structure Config where
  /-- RESET_STATE -/
  resetState : ResetState
  /-- STOP_LEN -/
  stopLen : StopLen
  /-- HOST_SKIP: the host has the input `skip` (60_exceptions.md R253) -/
  hostSkip : Bool
  /-- the part of `Mem` that is not plain RAM; every other address is plain RAM -/
  external : List Window
deriving DecidableEq, Repr

/-- Every parameter at its default (92_eei_decisions.md D1, D2, D4, D7), the memory all plain RAM. -/
def Config.default : Config :=
  { resetState := ResetState.default, stopLen := .one, hostSkip := false, external := [] }

/-- FREE VALUE: what a collaborator that is not plain RAM answers to a read of the address, given every transaction so far, the
newest first. The spec demands only that it answers (20_memory.md R41: "cannot fail, fault, stall visibly or be refused"), and
leaves the value open (93_implementation_defined.md U8, "any value"), so nothing here constrains it.
DESIGN CHOICE: notes/assumptions/2.md. -/
opaque Config.collaboratorRead : List BusEvent → Word → Byte

end Sys2Proof
end

