-- ==== Sys2Proof/Machine/Bits.lean ====
section
/-! DEFINITION. Bit fields, byte order and sign extension (00_scope.md R6): the helpers the decoder and the machine share. -/

namespace Sys2Proof

/-- `hi(w) = w[15:8]` (00_scope.md R6). -/
def hiByte (w : Word) : Byte := w.extractLsb' 8 8

/-- `lo(w) = w[7:0]` (00_scope.md R6). -/
def loByte (w : Word) : Byte := w.extractLsb' 0 8

/-- `(h:l) = h * 256 + l` (00_scope.md R6): the only place that decides the byte order of a word. -/
def mkWord (h l : Byte) : Word := h ++ l

/-- `sext_16(b)`: `b` if `b < 128`, else `b + 0xFF00` (00_scope.md R6). -/
def sext16 (b : Byte) : Word := b.signExtend 16

/-- `zext_16(b) = b` (00_scope.md R6). -/
def zext16 (b : Byte) : Word := b.zeroExtend 16

/-- `x = op[7:6]` (30_encoding.md R66). -/
def fieldX (op : Byte) : BitVec 2 := op.extractLsb' 6 2

/-- `y = op[5:3]` (30_encoding.md R66). -/
def fieldY (op : Byte) : BitVec 3 := op.extractLsb' 3 3

/-- `z = op[2:0]` (30_encoding.md R66). -/
def fieldZ (op : Byte) : BitVec 3 := op.extractLsb' 0 3

/-- `p = op[5:4]`, as the upper two bits of `y` (30_encoding.md R66). -/
def fieldP (y : BitVec 3) : BitVec 2 := y.extractLsb' 1 2

/-- `q = op[3]`, as the lowest bit of `y` (30_encoding.md R66). -/
def fieldQ (y : BitVec 3) : BitVec 1 := y.extractLsb' 0 1

/-- `c = op[4:3]`, as the lower two bits of `y` (30_encoding.md R66). -/
def fieldC (y : BitVec 3) : BitVec 2 := y.extractLsb' 0 2

end Sys2Proof
end

