-- ==== Sys2Proof/Syntax.lean ====
section
/-! DEFINITION. The instructions of the core: one constructor of `Instr` for each row of spec/opcode_table.json, the operands
already resolved from the fields of the opcode byte (30_encoding.md R61, R66 to R73) and the immediate bytes of the form as
arguments (notes/assumptions/8.md). A comment line gives the row's name in the spec. -/

namespace Sys2Proof

/-- The seven general registers (10_state.md R20), in the order of their codes (R21; code 6 is no register). -/
inductive Reg8 where
  | b | c | d | e | h | l | a
deriving DecidableEq, Repr

/-- The three 16-bit pair views (10_state.md R24); also the operand of PUSH and POP other than AF. -/
inductive Pair where
  | bc | de | hl
deriving DecidableEq, Repr

/-- The operand `rr`, code `p` (30_encoding.md R71): a pair or the stack pointer. -/
inductive RR where
  | bc | de | hl | sp
deriving DecidableEq, Repr

/-- The condition operand `cc` (30_encoding.md R72). -/
inductive Cond where
  | nz | z | nc | c
deriving DecidableEq, Repr

/-- One constructor per row of spec/opcode_table.json. -/
inductive Instr where
  -- 41_alu8.md: 8-bit arithmetic and logic
  | addAR (r : Reg8)          -- ADD A,r
  | addAHl                    -- ADD A,(HL)
  | addAN (n : Byte)          -- ADD A,n
  | adcAR (r : Reg8)          -- ADC A,r
  | adcAHl                    -- ADC A,(HL)
  | adcAN (n : Byte)          -- ADC A,n
  | subR (r : Reg8)           -- SUB r
  | subHl                     -- SUB (HL)
  | subN (n : Byte)           -- SUB n
  | sbcAR (r : Reg8)          -- SBC A,r
  | sbcAHl                    -- SBC A,(HL)
  | sbcAN (n : Byte)          -- SBC A,n
  | andR (r : Reg8)           -- AND r
  | andHl                     -- AND (HL)
  | andN (n : Byte)           -- AND n
  | xorR (r : Reg8)           -- XOR r
  | xorHl                     -- XOR (HL)
  | xorN (n : Byte)           -- XOR n
  | orR (r : Reg8)            -- OR r
  | orHl                      -- OR (HL)
  | orN (n : Byte)            -- OR n
  | cpR (r : Reg8)            -- CP r
  | cpHl                      -- CP (HL)
  | cpN (n : Byte)            -- CP n
  | incR (r : Reg8)           -- INC r
  | incHl                     -- INC (HL)
  | decR (r : Reg8)           -- DEC r
  | decHl                     -- DEC (HL)
  -- 42_alu16.md: 16-bit arithmetic
  | incRR (p : RR)            -- INC rr
  | decRR (p : RR)            -- DEC rr
  | addHlRR (p : RR)          -- ADD HL,rr
  | addSpE (e : Byte)         -- ADD SP,e
  | ldHlSpE (e : Byte)        -- LD HL,SP+e
  -- 43_rotate_shift_bit.md: rotates, shifts, bit operations
  | rlca                      -- RLCA
  | rrca                      -- RRCA
  | rla                       -- RLA
  | rra                       -- RRA
  | rlcR (r : Reg8)           -- RLC r
  | rlcHl                     -- RLC (HL)
  | rrcR (r : Reg8)           -- RRC r
  | rrcHl                     -- RRC (HL)
  | rlR (r : Reg8)            -- RL r
  | rlHl                      -- RL (HL)
  | rrR (r : Reg8)            -- RR r
  | rrHl                      -- RR (HL)
  | slaR (r : Reg8)           -- SLA r
  | slaHl                     -- SLA (HL)
  | sraR (r : Reg8)           -- SRA r
  | sraHl                     -- SRA (HL)
  | swapR (r : Reg8)          -- SWAP r
  | swapHl                    -- SWAP (HL)
  | srlR (r : Reg8)           -- SRL r
  | srlHl                     -- SRL (HL)
  | bitR (b : BitVec 3) (r : Reg8)  -- BIT b,r
  | bitHl (b : BitVec 3)      -- BIT b,(HL)
  | resR (b : BitVec 3) (r : Reg8)  -- RES b,r
  | resHl (b : BitVec 3)      -- RES b,(HL)
  | setR (b : BitVec 3) (r : Reg8)  -- SET b,r
  | setHl (b : BitVec 3)      -- SET b,(HL)
  -- 44_misc_alu.md: accumulator and flag adjust
  | daa                       -- DAA
  | cpl                       -- CPL
  | scf                       -- SCF
  | ccf                       -- CCF
  -- 45_loads8.md: 8-bit loads and stores
  | ldReg (rd rs : Reg8)      -- LD r,r'
  | ldRegN (rd : Reg8) (n : Byte)  -- LD r,n
  | ldRegHl (rd : Reg8)       -- LD r,(HL)
  | ldHlReg (rs : Reg8)       -- LD (HL),r
  | ldHlN (n : Byte)          -- LD (HL),n
  | ldABc                     -- LD A,(BC)
  | ldADe                     -- LD A,(DE)
  | ldBcA                     -- LD (BC),A
  | ldDeA                     -- LD (DE),A
  | ldANn (nn : Word)         -- LD A,(nn)
  | ldNnA (nn : Word)         -- LD (nn),A
  | ldhAN (n : Byte)          -- LDH A,(n)
  | ldhNA (n : Byte)          -- LDH (n),A
  | ldAC                      -- LD A,(C)
  | ldCA                      -- LD (C),A
  | ldHlIncA                  -- LD (HL+),A
  | ldAHlInc                  -- LD A,(HL+)
  | ldHlDecA                  -- LD (HL-),A
  | ldAHlDec                  -- LD A,(HL-)
  -- 46_loads16_stack.md: 16-bit loads and stack
  | ldRRNn (p : RR) (nn : Word)  -- LD rr,nn
  | ldNnSp (nn : Word)        -- LD (nn),SP
  | ldSpHl                    -- LD SP,HL
  | pushPair (q : Pair)       -- PUSH rr
  | pushAf                    -- PUSH AF
  | popPair (q : Pair)        -- POP rr
  | popAf                     -- POP AF
  -- 47_control_flow.md: control transfer
  | jpNn (nn : Word)          -- JP nn
  | jpCcNn (cc : Cond) (nn : Word)  -- JP cc,nn
  | jpHl                      -- JP HL
  | jrE (e : Byte)            -- JR e
  | jrCcE (cc : Cond) (e : Byte)  -- JR cc,e
  | callNn (nn : Word)        -- CALL nn
  | callCcNn (cc : Cond) (nn : Word)  -- CALL cc,nn
  | ret                       -- RET
  | retCc (cc : Cond)         -- RET cc
  | reti                      -- RETI
  | rst (t : BitVec 3)        -- RST t
  -- 48_system.md: system instructions, the prefix row, the illegal rows
  | nop                       -- NOP
  | halt                      -- HALT
  | stop                      -- STOP
  | di                        -- DI
  | ei                        -- EI
  | prefixCb                  -- PREFIX CB
  | illegalD3                 -- ILLEGAL 0xD3
  | illegalDB                 -- ILLEGAL 0xDB
  | illegalDD                 -- ILLEGAL 0xDD
  | illegalE3                 -- ILLEGAL 0xE3
  | illegalE4                 -- ILLEGAL 0xE4
  | illegalEB                 -- ILLEGAL 0xEB
  | illegalEC                 -- ILLEGAL 0xEC
  | illegalED                 -- ILLEGAL 0xED
  | illegalF4                 -- ILLEGAL 0xF4
  | illegalFC                 -- ILLEGAL 0xFC
  | illegalFD                 -- ILLEGAL 0xFD
deriving DecidableEq, Repr

end Sys2Proof
end

