-- ==== Sys2Proof/Machine/Flags.lean ====
section
/-! DEFINITION. The flag register's byte view (10_state.md R26), the conditions (40_alu_primitives.md R99), and the ALU primitives that
"compute result and flags together" (40_alu_primitives.md R80 to R98, R100). A primitive that leaves a flag unchanged takes the
old flags as its first argument. -/

namespace Sys2Proof.Machine

/-! ## The byte view of F -/

/-- `to_byte()` (10_state.md R26): "Z*128 + N*64 + H*32 + C*16", bits 3 to 0 zero. -/
def flagsToByte (f : Flags) : Byte :=
  BitVec.ofNat 8 (f.z.toNat * 128 + f.n.toNat * 64 + f.h.toNat * 32 + f.c.toNat * 16)

/-- `from_byte(b)` (10_state.md R26): bits 7, 6, 5, 4; bits 3 to 0 ignored. -/
def flagsFromByte (b : Byte) : Flags :=
  { z := b.getLsbD 7, n := b.getLsbD 6, h := b.getLsbD 5, c := b.getLsbD 4 }

/-- `cond(cc)` (40_alu_primitives.md R99). -/
def condHolds (f : Flags) : Cond → Bool
  | .nz => !f.z
  | .z => f.z
  | .nc => !f.c
  | .c => f.c

/-! ## Results -/

/-- A byte result and the flags after it. -/
structure Result8 where
  value : Byte
  flags : Flags
deriving DecidableEq, Repr

/-- A word result and the flags after it. -/
structure Result16 where
  value : Word
  flags : Flags
deriving DecidableEq, Repr

/-! ## 8-bit arithmetic and logic -/

/-- `add8(a, b, cin)` (40_alu_primitives.md R80). -/
def add8 (a b : Byte) (cin : Bool) : Result8 :=
  let t := a.toNat + b.toNat + cin.toNat
  let res : Byte := BitVec.ofNat 8 t
  { value := res
    flags :=
      { z := res == 0#8
        n := false
        h := decide (a.toNat % 16 + b.toNat % 16 + cin.toNat > 0xF)
        c := decide (t > 0xFF) } }

/-- `sub8(a, b, cin)` (40_alu_primitives.md R81). -/
def sub8 (a b : Byte) (cin : Bool) : Result8 :=
  let t : Int := (a.toNat : Int) - b.toNat - cin.toNat
  let res : Byte := BitVec.ofInt 8 t
  { value := res
    flags :=
      { z := res == 0#8
        n := true
        h := decide (a.toNat % 16 < b.toNat % 16 + cin.toNat)
        c := decide (a.toNat < b.toNat + cin.toNat) } }

/-- The flags of a bitwise result (40_alu_primitives.md R82): H is false for AND too. -/
def logicResult (res : Byte) : Result8 :=
  { value := res, flags := { z := res == 0#8, n := false, h := false, c := false } }

/-- `and8(a, b)` (40_alu_primitives.md R82). -/
def and8 (a b : Byte) : Result8 := logicResult (a &&& b)

/-- `xor8(a, b)` (40_alu_primitives.md R82). -/
def xor8 (a b : Byte) : Result8 := logicResult (a ^^^ b)

/-- `or8(a, b)` (40_alu_primitives.md R82). -/
def or8 (a b : Byte) : Result8 := logicResult (a ||| b)

/-- `inc8(v)` (40_alu_primitives.md R83): C is not written. -/
def inc8 (f : Flags) (v : Byte) : Result8 :=
  let res := v + 1#8
  { value := res, flags := { z := res == 0#8, n := false, h := v &&& 0x0F#8 == 0x0F#8, c := f.c } }

/-- `dec8(v)` (40_alu_primitives.md R84): C is not written. -/
def dec8 (f : Flags) (v : Byte) : Result8 :=
  let res := v - 1#8
  { value := res, flags := { z := res == 0#8, n := true, h := v &&& 0x0F#8 == 0x00#8, c := f.c } }

/-! ## 16-bit arithmetic -/

/-- `inc16(w)` (40_alu_primitives.md R85): Z and C are not written. -/
def inc16 (f : Flags) (w : Word) : Result16 :=
  { value := w + 1#16, flags := { z := f.z, n := false, h := w &&& 0x0FFF#16 == 0x0FFF#16, c := f.c } }

/-- `dec16(w)` (40_alu_primitives.md R86): Z and C are not written. -/
def dec16 (f : Flags) (w : Word) : Result16 :=
  { value := w - 1#16, flags := { z := f.z, n := true, h := w &&& 0x0FFF#16 == 0x0000#16, c := f.c } }

/-- `add16(a, b)` (40_alu_primitives.md R87): Z is not written. -/
def add16 (f : Flags) (a b : Word) : Result16 :=
  let t := a.toNat + b.toNat
  { value := BitVec.ofNat 16 t
    flags :=
      { z := f.z
        n := false
        h := decide (a.toNat % 4096 + b.toNat % 4096 > 0x0FFF)
        c := decide (t > 0xFFFF) } }

/-! ## Rotates and shifts -/

/-- A byte with one bit set or none. -/
def bitAt (k : Nat) (bit : Bool) : Byte := if bit then 1#8 <<< k else 0#8

/-- The flags of a rotate or shift whose outgoing bit is `out` (40_alu_primitives.md R88 to R94): the accumulator forms write C only, the
others Z, N and H as well. -/
def shiftResult (f : Flags) (acc : Bool) (res : Byte) (out : Bool) : Result8 :=
  { value := res
    flags := if acc then { f with c := out } else { z := res == 0#8, n := false, h := false, c := out } }

/-- `rlc8(v, acc)` (40_alu_primitives.md R88). -/
def rlc8 (f : Flags) (acc : Bool) (v : Byte) : Result8 :=
  shiftResult f acc ((v <<< 1) ||| bitAt 0 (v.getLsbD 7)) (v.getLsbD 7)

/-- `rrc8(v, acc)` (40_alu_primitives.md R89). -/
def rrc8 (f : Flags) (acc : Bool) (v : Byte) : Result8 :=
  shiftResult f acc ((v >>> 1) ||| bitAt 7 (v.getLsbD 0)) (v.getLsbD 0)

/-- `rl8(v, acc)` (40_alu_primitives.md R90): the old C enters at bit 0. -/
def rl8 (f : Flags) (acc : Bool) (v : Byte) : Result8 :=
  shiftResult f acc ((v <<< 1) ||| bitAt 0 f.c) (v.getLsbD 7)

/-- `rr8(v, acc)` (40_alu_primitives.md R91): the old C enters at bit 7. -/
def rr8 (f : Flags) (acc : Bool) (v : Byte) : Result8 :=
  shiftResult f acc ((v >>> 1) ||| bitAt 7 f.c) (v.getLsbD 0)

/-- `sla8(v)` (40_alu_primitives.md R92). -/
def sla8 (f : Flags) (v : Byte) : Result8 :=
  shiftResult f false (v <<< 1) (v.getLsbD 7)

/-- `sra8(v)` (40_alu_primitives.md R93): bit 7 keeps its value. -/
def sra8 (f : Flags) (v : Byte) : Result8 :=
  shiftResult f false ((v >>> 1) ||| (v &&& 0x80#8)) (v.getLsbD 0)

/-- `srl8(v)` (40_alu_primitives.md R94). -/
def srl8 (f : Flags) (v : Byte) : Result8 :=
  shiftResult f false (v >>> 1) (v.getLsbD 0)

/-- `swap8(v)` (40_alu_primitives.md R95): carry = subtract = half-carry = false. -/
def swap8 (v : Byte) : Result8 :=
  logicResult (((v <<< 4) &&& 0xF0#8) ||| (v >>> 4))

/-! ## Bit operations -/

/-- `bit8(b, v)` (40_alu_primitives.md R96): the flags after it; C is not written. -/
def bit8 (f : Flags) (b : BitVec 3) (v : Byte) : Flags :=
  { z := !v.getLsbD b.toNat, n := false, h := true, c := f.c }

/-- `res8(b, v) = v & ~(1 << b) & 0xFF` (40_alu_primitives.md R97): no flags. -/
def res8 (b : BitVec 3) (v : Byte) : Byte := v &&& ~~~(1#8 <<< b.toNat)

/-- `set8(b, v) = v | (1 << b)` (40_alu_primitives.md R97): no flags. -/
def set8 (b : BitVec 3) (v : Byte) : Byte := v ||| (1#8 <<< b.toNat)

/-! ## Decimal adjust -/

/-- `daa8(a)` (40_alu_primitives.md R98; notes/assumptions/16.md): both tests use the input; N is not written. -/
def daa8 (f : Flags) (a : Byte) : Result8 :=
  let low := f.h || (!f.n && decide (a.toNat % 16 > 0x09))
  let high := f.c || (!f.n && decide (a.toNat > 0x99))
  let adj : Byte := (if low then 0x06#8 else 0x00#8) ||| (if high then 0x60#8 else 0x00#8)
  let res := if f.n then a - adj else a + adj
  { value := res, flags := { z := res == 0#8, n := f.n, h := false, c := high } }

end Sys2Proof.Machine
end

