-- ==== Sys2Proof/Machine/State.lean ====
section
/-! DEFINITION. The machine's state as plain data: the closed list of 10_state.md (R20, R25, R28, R29, R30, R31), the memory as the plain
RAM a collaborator may be (20_memory.md R40, R50), the configuration (R32) and the two fields the model adds to hold what a
step gives to the outside: the signal of its outcome (00_scope.md R11) and the event history (20_memory.md R47). -/

namespace Sys2Proof.Machine

/-- The `signal` of an Ok outcome (00_scope.md R11; 60_exceptions.md R259). -/
inductive Signal where
  /-- every instruction that names no other -/
  | none
  /-- EI, RETI -/
  | intEnable
  /-- DI -/
  | intDisable
  /-- HALT -/
  | halt
  /-- STOP -/
  | stop
deriving DecidableEq, Repr

/-- Memory in canonical form: addresses strictly rising, no entry equal to what an unlisted address reads as. -/
abbrev Memory := List Host.Cell

/-- What an unlisted byte of memory reads as. DESIGN CHOICE (the spec gives no power-on contents, 70_reset_and_hazards.md R283; its
own test vectors start from memory that is 0x00): notes/assumptions/1.md, unsafe. -/
def Memory.unlisted : Byte := 0x00#8

/-- The canonical form: every address in the 16-bit space, addresses strictly rising, no entry that an unlisted byte reads as. -/
def Memory.wf : Memory → Bool
  | [] => true
  | [(k, v)] => decide (k < 65536) && decide (v ≠ Memory.unlisted)
  | (k, v) :: (k', v') :: rest =>
    decide (k < 65536) && decide (v ≠ Memory.unlisted) && decide (k < k') && Memory.wf ((k', v') :: rest)

/-- The state of the core and of the plain RAM beside it. -/
structure State where
  /-- A, the accumulator (10_state.md R20) -/
  a : Byte
  /-- B (R20) -/
  b : Byte
  /-- C (R20) -/
  c : Byte
  /-- D (R20) -/
  d : Byte
  /-- E (R20) -/
  e : Byte
  /-- H (R20) -/
  h : Byte
  /-- L (R20) -/
  l : Byte
  /-- F (R25) -/
  f : Flags
  /-- the stack pointer (R29) -/
  sp : Word
  /-- the program counter (R28) -/
  pc : Word
  /-- the plain RAM (20_memory.md R40, R50) -/
  mem : Memory
  /-- the model's own: every bus transaction so far, the newest first (20_memory.md R47; notes/assumptions/6.md) -/
  bus : List BusEvent
  /-- the model's own: the signal of the last step's Ok outcome (00_scope.md R11; notes/assumptions/5.md) -/
  signal : Signal
  /-- the configuration, written by no step (10_state.md R32; notes/assumptions/4.md) -/
  config : Config
deriving DecidableEq, Repr

/-- Why a step stops. -/
inductive Fault where
  /-- The one exception of the core, `IllegalOpcode{byte, prefixed}` (60_exceptions.md R250): raised by the eleven illegal rows of the
  opcode table and by nothing else. Safe: it is the outcome the spec gives, with the record the spec gives. -/
  | illegalOpcode (byte : Byte) (prefixed : Bool)
deriving DecidableEq, Repr

/-- Why an instruction has no meaning here. -/
inductive Refusal where
  /-- An arm of `exec` without a meaning; no arm answers so. Safe. -/
  | notModelled (mnemonic : String)
deriving DecidableEq, Repr

/-- The machine after power-on, which is a reset (70_reset_and_hazards.md R280), with every parameter at its default (R281): all registers
zero, all flags false, SP and PC 0x0000. Memory lists nothing (R283), the history is empty, and no step has given a signal. -/
def State.reset : State :=
  { a := Config.default.resetState.a
    b := Config.default.resetState.b
    c := Config.default.resetState.c
    d := Config.default.resetState.d
    e := Config.default.resetState.e
    h := Config.default.resetState.h
    l := Config.default.resetState.l
    f := Config.default.resetState.f
    sp := Config.default.resetState.sp
    pc := Config.default.resetState.pc
    mem := []
    bus := []
    signal := .none
    config := Config.default }

end Sys2Proof.Machine
end

