-- ==== Sys2Proof/Machine/Ops.lean ====
section
/-! DEFINITION. The operations every meaning is written over: memory and bus (20_memory.md R41, R44), register and pair access
(10_state.md R20, R24), the commit of a step (30_encoding.md R63), the stack (40_alu_primitives.md R102), and raising the one
exception (60_exceptions.md R250, R251) beside the return from a trap (R258). -/

namespace Sys2Proof.Machine

/-- What `exec` and every meaning answer. -/
abbrev Answer := Host.Outcome State Fault Refusal

/-! ## Memory -/

/-- The byte of plain RAM at an address: "the value of the most recent write to that address ..., or the cell's initial content"
(20_memory.md R50). -/
def Memory.read : Memory → Nat → Byte
  | [], _ => Memory.unlisted
  | (k, v) :: rest, addr => if addr = k then v else Memory.read rest addr

/-- Put a listed value in front of the cells behind it, unless it is what an unlisted byte reads as. -/
def Memory.consCell (addr : Nat) (v : Byte) (rest : Memory) : Memory :=
  if v = Memory.unlisted then rest else (addr, v) :: rest

/-- Store one byte, keeping the canonical form. -/
def Memory.write : Memory → Nat → Byte → Memory
  | [], addr, v => Memory.consCell addr v []
  | (k, w) :: rest, addr, v =>
    if addr < k then Memory.consCell addr v ((k, w) :: rest)
    else if addr = k then Memory.consCell addr v rest
    else (k, w) :: Memory.write rest addr v

/-! ## The bus -/

/-- Whether an address lies in a window, both ends included. -/
def windowCovers (w : Window) (addr : Word) : Bool :=
  decide (w.first.toNat ≤ addr.toNat) && decide (addr.toNat ≤ w.last.toNat)

/-- Whether something else than plain RAM answers at an address (notes/assumptions/2.md). -/
def isExternal (cfg : Config) (addr : Word) : Bool :=
  cfg.external.any fun w => windowCovers w addr

/-- The byte a read of `addr` would return now: the RAM cell, or what the collaborator answers. -/
def busValue (addr : Word) (s : State) : Byte :=
  if isExternal s.config addr then Config.collaboratorRead s.bus addr else s.mem.read addr.toNat

/-- `MemRead(addr, 1)` (20_memory.md R41): one bus read, total, recorded in the history (R47). -/
def busRead (addr : Word) (s : State) : Byte × State :=
  (busValue addr s, { s with bus := .read addr (busValue addr s) :: s.bus })

/-- `MemWrite(addr, 1, v)` (20_memory.md R41): one bus write, total, recorded in the history (R47). What a write outside plain RAM does is
the collaborator's (D23): the history that its later answers depend on holds the write. -/
def busWrite (addr : Word) (v : Byte) (s : State) : State :=
  { s with
    mem := if isExternal s.config addr then s.mem else s.mem.write addr.toNat v
    bus := .write addr v :: s.bus }

/-- `MemRead(addr, 2)` (20_memory.md R44): two byte reads, the low address and low byte first; address increments wrap. -/
def busReadWord (addr : Word) (s : State) : Word × State :=
  let lo := busRead addr s
  let hi := busRead (addr + 1#16) lo.2
  (mkWord hi.1 lo.1, hi.2)

/-! ## Registers and pairs -/

/-- `x[r]` read (00_scope.md R7, 10_state.md R20). -/
def State.getReg (s : State) : Reg8 → Byte
  | .b => s.b
  | .c => s.c
  | .d => s.d
  | .e => s.e
  | .h => s.h
  | .l => s.l
  | .a => s.a

/-- `x[r] <- v` (00_scope.md R7, 10_state.md R20). -/
def State.setReg (s : State) (r : Reg8) (v : Byte) : State :=
  match r with
  | .b => { s with b := v }
  | .c => { s with c := v }
  | .d => { s with d := v }
  | .e => { s with e := v }
  | .h => { s with h := v }
  | .l => { s with l := v }
  | .a => { s with a := v }

/-- `xp[BC] = (x[B]:x[C])`, `xp[DE] = (x[D]:x[E])`, `xp[HL] = (x[H]:x[L])` (10_state.md R24). -/
def State.getPair (s : State) : Pair → Word
  | .bc => mkWord s.b s.c
  | .de => mkWord s.d s.e
  | .hl => mkWord s.h s.l

/-- `xp[q] <- w`: "writing a pair writes both underlying bytes together" (10_state.md R24). -/
def State.setPair (s : State) (q : Pair) (w : Word) : State :=
  match q with
  | .bc => { s with b := hiByte w, c := loByte w }
  | .de => { s with d := hiByte w, e := loByte w }
  | .hl => { s with h := hiByte w, l := loByte w }

/-- `rp(p)` read: a pair or the stack pointer (42_alu16.md). -/
def State.getRR (s : State) : RR → Word
  | .bc => s.getPair .bc
  | .de => s.getPair .de
  | .hl => s.getPair .hl
  | .sp => s.sp

/-- `rp(p) <- w` (42_alu16.md). -/
def State.setRR (s : State) (p : RR) (w : Word) : State :=
  match p with
  | .bc => s.setPair .bc w
  | .de => s.setPair .de w
  | .hl => s.setPair .hl w
  | .sp => { s with sp := w }

/-- Write the four flags. A meaning that leaves a flag unchanged passes its old value (00_scope.md R8). -/
def State.setFlags (s : State) (f : Flags) : State := { s with f := f }

/-! ## The end of a step -/

/-- COMMIT (30_encoding.md R63): `pc <- next_pc`, outcome `Ok(signal)`. -/
def State.commit (s : State) (nextPc : Word) (signal : Signal) : State :=
  { s with pc := nextPc, signal := signal }

/-! ## The stack -/

/-- `push16(w)` (40_alu_primitives.md R102): `sp` down by two, high byte at `sp + 1` first, then low byte at `sp`. -/
def push16 (w : Word) (s : State) : State :=
  let sp1 := s.sp - 2#16
  busWrite sp1 (loByte w) (busWrite (sp1 + 1#16) (hiByte w) { s with sp := sp1 })

/-- `pop16()` (40_alu_primitives.md R102): low byte at `sp`, then high byte at `sp + 1`, then `sp` up by two. -/
def pop16 (s : State) : Word × State :=
  let w := busReadWord s.sp s
  (w.1, { w.2 with sp := s.sp + 2#16 })

/-! ## The exception, and the return from a trap -/

/-- `raise IllegalOpcode(byte, prefixed)` (00_scope.md R7; 60_exceptions.md R250). "The core performs no trap entry of its own: it saves no
state, switches no mode or stack, changes no mask and loads no vector" (R256): the record is handed to the host, and the state
the host still holds is the one before the step (R251; `State.afterFault` in Machine/Port.lean). -/
def raiseIllegalOpcode (byte : Byte) (prefixed : Bool) : Answer :=
  .fault (.illegalOpcode byte prefixed)

/-- Return through the stack (47_control_flow.md R227, R229; 60_exceptions.md R258): `next_pc <- pop16()` and nothing else, with the signal
of the instruction: `none` for RET, `int_enable` for RETI, the trap return of the ISA. -/
def returnWith (signal : Signal) (s : State) : Answer :=
  let w := pop16 s
  .next (w.2.commit w.1 signal)

end Sys2Proof.Machine
end

