-- ==== Sys2Proof/Machine/Operands.lean ====
section
/-! DEFINITION. Operand resolution (40_alu_primitives.md R101) and the shapes that instructions of one family share. An immediate operand is
already a value here, read from the bus by the fetch (Machine/Fetch.lean). `len` is the instruction's length, the addend of `pc`
for an instruction that does not branch (30_encoding.md R65). -/

namespace Sys2Proof.Machine

/-- Where an 8-bit operand lies: a register, or code 6, the byte at address HL (10_state.md R21). -/
inductive Loc8 where
  | reg (r : Reg8)
  | hlInd
deriving DecidableEq, Repr

/-- `xp[HL]`, the address of an HL-indirect operand. -/
def State.hl (s : State) : Word := s.getPair .hl

/-- `read8(k)` (40_alu_primitives.md R101): the value, and the state after the bus read of an HL-indirect operand. -/
def read8 (loc : Loc8) (s : State) : Byte × State :=
  match loc with
  | .reg r => (s.getReg r, s)
  | .hlInd => busRead s.hl s

/-- `write8(k, v)` (40_alu_primitives.md R101). -/
def write8 (loc : Loc8) (v : Byte) (s : State) : State :=
  match loc with
  | .reg r => s.setReg r v
  | .hlInd => busWrite s.hl v s

/-- The address of an I/O page operand, 0xFF00 + `n` (20_memory.md R48 (b); notes/assumptions/24.md). -/
def ioAddress (n : Byte) : Word := 0xFF00#16 + zext16 n

/-! ## Shapes of the 8-bit instructions -/

/-- Write a result to A with its flags and end the step. -/
def intoA (r : Result8) (len : Word) (s : State) : Answer :=
  .next (((s.setReg .a r.value).setFlags r.flags).commit (s.pc + len) .none)

/-- An accumulator operation on a register or memory operand: `x[A] <- op(x[A], v)`, length 1. -/
def accumulate (op : Byte → Byte → Result8) (src : Loc8) (s : State) : Answer :=
  let v := read8 src s
  intoA (op s.a v.1) 1#16 v.2

/-- An accumulator operation on the immediate byte, length 2. -/
def accumulateImm (op : Byte → Byte → Result8) (n : Byte) (s : State) : Answer :=
  intoA (op s.a n) 2#16 s

/-- Write only flags and end the step. -/
def onlyFlags (f : Flags) (len : Word) (s : State) : Answer :=
  .next ((s.setFlags f).commit (s.pc + len) .none)

/-- Compare A with a register or memory operand: the flags of SUB, the result discarded (41_alu8.md R131, R132). -/
def compareA (src : Loc8) (s : State) : Answer :=
  let v := read8 src s
  onlyFlags (sub8 s.a v.1 false).flags 1#16 v.2

/-- Read an operand, compute, write the result back to the same place, write the flags (20_memory.md R45: one read, then one write). -/
def modify8 (op : Byte → Result8) (loc : Loc8) (len : Word) (s : State) : Answer :=
  let v := read8 loc s
  let r := op v.1
  .next (((write8 loc r.value v.2).setFlags r.flags).commit (s.pc + len) .none)

/-- As `modify8`, with no flag written (43_rotate_shift_bit.md R172 to R175). -/
def modifyBits (op : Byte → Byte) (loc : Loc8) (s : State) : Answer :=
  let v := read8 loc s
  .next ((write8 loc (op v.1) v.2).commit (s.pc + 2#16) .none)

/-- Test one bit of an operand (43_rotate_shift_bit.md R170, R171). -/
def testBit (b : BitVec 3) (loc : Loc8) (s : State) : Answer :=
  let v := read8 loc s
  onlyFlags (bit8 s.f b v.1) 2#16 v.2

/-! ## Shapes of the 16-bit instructions -/

/-- Write a word and its flags to a pair or SP, and end the step. -/
def intoRR (p : RR) (r : Result16) (len : Word) (s : State) : Answer :=
  .next (((s.setRR p r.value).setFlags r.flags).commit (s.pc + len) .none)

/-! ## Shapes of the loads -/

/-- Load a register with a value already at hand. -/
def loadValue (r : Reg8) (v : Byte) (len : Word) (s : State) : Answer :=
  .next ((s.setReg r v).commit (s.pc + len) .none)

/-- Load a register from memory: one bus read. -/
def loadFrom (r : Reg8) (addr : Word) (len : Word) (s : State) : Answer :=
  let v := busRead addr s
  .next ((v.2.setReg r v.1).commit (s.pc + len) .none)

/-- Store a byte to memory: one bus write. -/
def storeTo (addr : Word) (v : Byte) (len : Word) (s : State) : Answer :=
  .next ((busWrite addr v s).commit (s.pc + len) .none)

/-- Store A at the old HL, then HL takes its new value (45_loads8.md R205, R207): no flag. -/
def storeAThenHl (newHl : Word) (s : State) : Answer :=
  .next (((busWrite s.hl s.a s).setPair .hl newHl).commit (s.pc + 1#16) .none)

/-- Load A from the old HL, then HL takes its new value (45_loads8.md R206, R208): no flag. -/
def loadAThenHl (newHl : Word) (s : State) : Answer :=
  let v := busRead s.hl s
  .next (((v.2.setReg .a v.1).setPair .hl newHl).commit (s.pc + 1#16) .none)

/-! ## Shapes of control transfer -/

/-- `next_pc <- target`, nothing else. -/
def jumpTo (target : Word) (s : State) : Answer :=
  .next (s.commit target .none)

/-- The target of a taken JR: `(pc + 2 + signed(e)) mod 65536` (47_control_flow.md R223). -/
def relativeTarget (e : Byte) (s : State) : Word := s.pc + 2#16 + sext16 e

/-- Push the return address and jump (47_control_flow.md R225, R230). -/
def callTo (target returnAddr : Word) (s : State) : Answer :=
  .next ((push16 returnAddr s).commit target .none)

/-- Only `pc` and the signal change (48_system.md R240 to R244). -/
def advance (len : Word) (signal : Signal) (s : State) : Answer :=
  .next (s.commit (s.pc + len) signal)

end Sys2Proof.Machine
end

