-- ==== Sys2Proof/Machine/Adjust.lean ====
section
/-! DEFINITION. The meanings of the accumulator and flag adjust instructions (44_misc_alu.md R180 to R183). -/

namespace Sys2Proof.Machine

/-- `DAA` (44_misc_alu.md R180). -/
def execDaa (s : State) : Answer :=
  intoA (daa8 s.f s.a) 1#16 s

/-- `CPL` (44_misc_alu.md R181): A complemented, N and H set, Z and C unchanged. -/
def execCpl (s : State) : Answer :=
  intoA { value := s.a ^^^ 0xFF#8, flags := { s.f with n := true, h := true } } 1#16 s

/-- `SCF` (44_misc_alu.md R182): C set, N and H cleared, Z unchanged. -/
def execScf (s : State) : Answer :=
  onlyFlags { s.f with n := false, h := false, c := true } 1#16 s

/-- `CCF` (44_misc_alu.md R183): C complemented, N and H cleared, Z unchanged. -/
def execCcf (s : State) : Answer :=
  onlyFlags { s.f with n := false, h := false, c := !s.f.c } 1#16 s

end Sys2Proof.Machine
end

