-- ==== Sys2Proof/Machine/Alu16.lean ====
section
/-! DEFINITION. The meanings of the 16-bit arithmetic instructions (42_alu16.md R140 to R144). Their flags are the document's, not those published for
the silicon (93_implementation_defined.md GK13; notes/assumptions/17.md and 18.md). -/

namespace Sys2Proof.Machine

/-- `INC rr` (42_alu16.md R140). -/
def execIncRR (p : RR) (s : State) : Answer :=
  intoRR p (inc16 s.f (s.getRR p)) 1#16 s

/-- `DEC rr` (42_alu16.md R141). -/
def execDecRR (p : RR) (s : State) : Answer :=
  intoRR p (dec16 s.f (s.getRR p)) 1#16 s

/-- `ADD HL,rr` (42_alu16.md R142). -/
def execAddHlRR (p : RR) (s : State) : Answer :=
  intoRR .hl (add16 s.f s.hl (s.getRR p)) 1#16 s

/-- `ADD SP,e` (42_alu16.md R143). -/
def execAddSpE (e : Byte) (s : State) : Answer :=
  intoRR .sp (add16 s.f s.sp (sext16 e)) 2#16 s

/-- `LD HL,SP+e` (42_alu16.md R144): the adder and the flags of `ADD SP,e`; SP keeps its value. -/
def execLdHlSpE (e : Byte) (s : State) : Answer :=
  intoRR .hl (add16 s.f s.sp (sext16 e)) 2#16 s

end Sys2Proof.Machine
end

