-- ==== Sys2Proof/Machine/Alu8.lean ====
section
/-! DEFINITION. The meanings of the 8-bit arithmetic and logic instructions (41_alu8.md R110 to R137). -/

namespace Sys2Proof.Machine

/-! ## ADD -/

/-- `ADD A,r` (41_alu8.md R110). -/
def execAddAR (r : Reg8) (s : State) : Answer :=
  accumulate (fun a v => add8 a v false) (.reg r) s

/-- `ADD A,(HL)` (41_alu8.md R111). -/
def execAddAHl (s : State) : Answer :=
  accumulate (fun a v => add8 a v false) .hlInd s

/-- `ADD A,n` (41_alu8.md R112). -/
def execAddAN (n : Byte) (s : State) : Answer :=
  accumulateImm (fun a v => add8 a v false) n s

/-! ## ADC: the carry flag is read before it is written -/

/-- `ADC A,r` (41_alu8.md R113). -/
def execAdcAR (r : Reg8) (s : State) : Answer :=
  accumulate (fun a v => add8 a v s.f.c) (.reg r) s

/-- `ADC A,(HL)` (41_alu8.md R114). -/
def execAdcAHl (s : State) : Answer :=
  accumulate (fun a v => add8 a v s.f.c) .hlInd s

/-- `ADC A,n` (41_alu8.md R115). -/
def execAdcAN (n : Byte) (s : State) : Answer :=
  accumulateImm (fun a v => add8 a v s.f.c) n s

/-! ## SUB -/

/-- `SUB r` (41_alu8.md R116). -/
def execSubR (r : Reg8) (s : State) : Answer :=
  accumulate (fun a v => sub8 a v false) (.reg r) s

/-- `SUB (HL)` (41_alu8.md R117). -/
def execSubHl (s : State) : Answer :=
  accumulate (fun a v => sub8 a v false) .hlInd s

/-- `SUB n` (41_alu8.md R118). -/
def execSubN (n : Byte) (s : State) : Answer :=
  accumulateImm (fun a v => sub8 a v false) n s

/-! ## SBC: the carry flag is read before it is written -/

/-- `SBC A,r` (41_alu8.md R119). -/
def execSbcAR (r : Reg8) (s : State) : Answer :=
  accumulate (fun a v => sub8 a v s.f.c) (.reg r) s

/-- `SBC A,(HL)` (41_alu8.md R120). -/
def execSbcAHl (s : State) : Answer :=
  accumulate (fun a v => sub8 a v s.f.c) .hlInd s

/-- `SBC A,n` (41_alu8.md R121). -/
def execSbcAN (n : Byte) (s : State) : Answer :=
  accumulateImm (fun a v => sub8 a v s.f.c) n s

/-! ## AND -/

/-- `AND r` (41_alu8.md R122). -/
def execAndR (r : Reg8) (s : State) : Answer :=
  accumulate and8 (.reg r) s

/-- `AND (HL)` (41_alu8.md R123). -/
def execAndHl (s : State) : Answer :=
  accumulate and8 .hlInd s

/-- `AND n` (41_alu8.md R124). -/
def execAndN (n : Byte) (s : State) : Answer :=
  accumulateImm and8 n s

/-! ## XOR -/

/-- `XOR r` (41_alu8.md R125). -/
def execXorR (r : Reg8) (s : State) : Answer :=
  accumulate xor8 (.reg r) s

/-- `XOR (HL)` (41_alu8.md R126). -/
def execXorHl (s : State) : Answer :=
  accumulate xor8 .hlInd s

/-- `XOR n` (41_alu8.md R127). -/
def execXorN (n : Byte) (s : State) : Answer :=
  accumulateImm xor8 n s

/-! ## OR -/

/-- `OR r` (41_alu8.md R128). -/
def execOrR (r : Reg8) (s : State) : Answer :=
  accumulate or8 (.reg r) s

/-- `OR (HL)` (41_alu8.md R129). -/
def execOrHl (s : State) : Answer :=
  accumulate or8 .hlInd s

/-- `OR n` (41_alu8.md R130). -/
def execOrN (n : Byte) (s : State) : Answer :=
  accumulateImm or8 n s

/-! ## CP: the flags of SUB, A is never written -/

/-- `CP r` (41_alu8.md R131). -/
def execCpR (r : Reg8) (s : State) : Answer :=
  compareA (.reg r) s

/-- `CP (HL)` (41_alu8.md R132). -/
def execCpHl (s : State) : Answer :=
  compareA .hlInd s

/-- `CP n` (41_alu8.md R133). -/
def execCpN (n : Byte) (s : State) : Answer :=
  onlyFlags (sub8 s.a n false).flags 2#16 s

/-! ## INC and DEC: C is not written -/

/-- `INC r` (41_alu8.md R134). -/
def execIncR (r : Reg8) (s : State) : Answer :=
  modify8 (inc8 s.f) (.reg r) 1#16 s

/-- `INC (HL)` (41_alu8.md R135). -/
def execIncHl (s : State) : Answer :=
  modify8 (inc8 s.f) .hlInd 1#16 s

/-- `DEC r` (41_alu8.md R136). -/
def execDecR (r : Reg8) (s : State) : Answer :=
  modify8 (dec8 s.f) (.reg r) 1#16 s

/-- `DEC (HL)` (41_alu8.md R137). -/
def execDecHl (s : State) : Answer :=
  modify8 (dec8 s.f) .hlInd 1#16 s

end Sys2Proof.Machine
end

