-- ==== Sys2Proof/Machine/Control.lean ====
section
/-! DEFINITION. The meanings of the control transfer instructions (47_control_flow.md R220 to R230). `s.pc` is the address of the instruction's
first byte. None writes a flag or a general register. -/

namespace Sys2Proof.Machine

/-- `JP nn` (47_control_flow.md R220). -/
def execJpNn (nn : Word) (s : State) : Answer :=
  jumpTo nn s

/-- `JP cc,nn` (47_control_flow.md R221). -/
def execJpCcNn (cc : Cond) (nn : Word) (s : State) : Answer :=
  if condHolds s.f cc then jumpTo nn s else jumpTo (s.pc + 3#16) s

/-- `JP HL` (47_control_flow.md R222): the register value is the target, no memory access. -/
def execJpHl (s : State) : Answer :=
  jumpTo s.hl s

/-- `JR e` (47_control_flow.md R223). -/
def execJrE (e : Byte) (s : State) : Answer :=
  jumpTo (relativeTarget e s) s

/-- `JR cc,e` (47_control_flow.md R224). -/
def execJrCcE (cc : Cond) (e : Byte) (s : State) : Answer :=
  if condHolds s.f cc then jumpTo (relativeTarget e s) s else jumpTo (s.pc + 2#16) s

/-- `CALL nn` (47_control_flow.md R225). -/
def execCallNn (nn : Word) (s : State) : Answer :=
  callTo nn (s.pc + 3#16) s

/-- `CALL cc,nn` (47_control_flow.md R226): the condition governs the push as well. -/
def execCallCcNn (cc : Cond) (nn : Word) (s : State) : Answer :=
  if condHolds s.f cc then callTo nn (s.pc + 3#16) s else jumpTo (s.pc + 3#16) s

/-- `RET` (47_control_flow.md R227). -/
def execRet (s : State) : Answer :=
  returnWith .none s

/-- `RET cc` (47_control_flow.md R228): when the condition is false the stack is not read. -/
def execRetCc (cc : Cond) (s : State) : Answer :=
  if condHolds s.f cc then returnWith .none s else jumpTo (s.pc + 1#16) s

/-- `RETI` (47_control_flow.md R229): as RET, with the signal `int_enable` to the external controller. -/
def execReti (s : State) : Answer :=
  returnWith .intEnable s

/-- `RST t` (47_control_flow.md R230): a call to `8 * t`. -/
def execRst (t : BitVec 3) (s : State) : Answer :=
  callTo (8#16 * t.zeroExtend 16) (s.pc + 1#16) s

end Sys2Proof.Machine
end

