-- ==== Sys2Proof/Machine/Load16.lean ====
section
/-! DEFINITION. The meanings of the 16-bit loads and the stack instructions (46_loads16_stack.md R210 to R216). -/

namespace Sys2Proof.Machine

/-- `LD rr,nn` (46_loads16_stack.md R210): no flag. -/
def execLdRRNn (p : RR) (nn : Word) (s : State) : Answer :=
  .next ((s.setRR p nn).commit (s.pc + 3#16) .none)

/-- `LD (nn),SP` (46_loads16_stack.md R211): low byte at `nn` first, then high byte at `nn + 1`. -/
def execLdNnSp (nn : Word) (s : State) : Answer :=
  .next ((busWrite (nn + 1#16) (hiByte s.sp) (busWrite nn (loByte s.sp) s)).commit (s.pc + 3#16) .none)

/-- `LD SP,HL` (46_loads16_stack.md R212): no flag. -/
def execLdSpHl (s : State) : Answer :=
  .next ((s.setRR .sp s.hl).commit (s.pc + 1#16) .none)

/-- `PUSH rr` (46_loads16_stack.md R213). -/
def execPushPair (q : Pair) (s : State) : Answer :=
  .next ((push16 (s.getPair q) s).commit (s.pc + 1#16) .none)

/-- `PUSH AF` (46_loads16_stack.md R214): A is the high byte, the flags byte the low one. -/
def execPushAf (s : State) : Answer :=
  .next ((push16 (mkWord s.a (flagsToByte s.f)) s).commit (s.pc + 1#16) .none)

/-- `POP rr` (46_loads16_stack.md R215). -/
def execPopPair (q : Pair) (s : State) : Answer :=
  let w := pop16 s
  .next ((w.2.setPair q w.1).commit (s.pc + 1#16) .none)

/-- `POP AF` (46_loads16_stack.md R216): all four flags are written from the low byte, its bits 3 to 0 discarded. -/
def execPopAf (s : State) : Answer :=
  let w := pop16 s
  .next (((w.2.setReg .a (hiByte w.1)).setFlags (flagsFromByte (loByte w.1))).commit (s.pc + 1#16) .none)

end Sys2Proof.Machine
end

