-- ==== Sys2Proof/Machine/Load8.lean ====
section
/-! DEFINITION. The meanings of the 8-bit loads and stores (45_loads8.md R190 to R208). None reads or writes a flag. -/

namespace Sys2Proof.Machine

/-- `LD r,r'` (45_loads8.md R190). -/
def execLdReg (rd rs : Reg8) (s : State) : Answer :=
  loadValue rd (s.getReg rs) 1#16 s

/-- `LD r,n` (45_loads8.md R191). -/
def execLdRegN (rd : Reg8) (n : Byte) (s : State) : Answer :=
  loadValue rd n 2#16 s

/-- `LD r,(HL)` (45_loads8.md R192): the address is formed from the old HL. -/
def execLdRegHl (rd : Reg8) (s : State) : Answer :=
  loadFrom rd s.hl 1#16 s

/-- `LD (HL),r` (45_loads8.md R193). -/
def execLdHlReg (rs : Reg8) (s : State) : Answer :=
  storeTo s.hl (s.getReg rs) 1#16 s

/-- `LD (HL),n` (45_loads8.md R194). -/
def execLdHlN (n : Byte) (s : State) : Answer :=
  storeTo s.hl n 2#16 s

/-- `LD A,(BC)` (45_loads8.md R195). -/
def execLdABc (s : State) : Answer :=
  loadFrom .a (s.getPair .bc) 1#16 s

/-- `LD A,(DE)` (45_loads8.md R196). -/
def execLdADe (s : State) : Answer :=
  loadFrom .a (s.getPair .de) 1#16 s

/-- `LD (BC),A` (45_loads8.md R197). -/
def execLdBcA (s : State) : Answer :=
  storeTo (s.getPair .bc) s.a 1#16 s

/-- `LD (DE),A` (45_loads8.md R198). -/
def execLdDeA (s : State) : Answer :=
  storeTo (s.getPair .de) s.a 1#16 s

/-- `LD A,(nn)` (45_loads8.md R199). -/
def execLdANn (nn : Word) (s : State) : Answer :=
  loadFrom .a nn 3#16 s

/-- `LD (nn),A` (45_loads8.md R200). -/
def execLdNnA (nn : Word) (s : State) : Answer :=
  storeTo nn s.a 3#16 s

/-- `LDH A,(n)` (45_loads8.md R201). -/
def execLdhAN (n : Byte) (s : State) : Answer :=
  loadFrom .a (ioAddress n) 2#16 s

/-- `LDH (n),A` (45_loads8.md R202). -/
def execLdhNA (n : Byte) (s : State) : Answer :=
  storeTo (ioAddress n) s.a 2#16 s

/-- `LD A,(C)` (45_loads8.md R203): register C is the I/O page address. -/
def execLdAC (s : State) : Answer :=
  loadFrom .a (ioAddress s.c) 1#16 s

/-- `LD (C),A` (45_loads8.md R204). -/
def execLdCA (s : State) : Answer :=
  storeTo (ioAddress s.c) s.a 1#16 s

/-- `LD (HL+),A` (45_loads8.md R205). -/
def execLdHlIncA (s : State) : Answer :=
  storeAThenHl (s.hl + 1#16) s

/-- `LD A,(HL+)` (45_loads8.md R206). -/
def execLdAHlInc (s : State) : Answer :=
  loadAThenHl (s.hl + 1#16) s

/-- `LD (HL-),A` (45_loads8.md R207). -/
def execLdHlDecA (s : State) : Answer :=
  storeAThenHl (s.hl - 1#16) s

/-- `LD A,(HL-)` (45_loads8.md R208). -/
def execLdAHlDec (s : State) : Answer :=
  loadAThenHl (s.hl - 1#16) s

end Sys2Proof.Machine
end

