-- ==== Sys2Proof/WellFormed.lean ====
section
/-! DEFINITION. Which terms of `Instr` are instructions of the ISA. Every operand field of `Instr` has a type whose values are
exactly the values the encoding gives the field (30_encoding.md R66 to R73), so the only terms that are no instruction are
rows of the opcode table that the spec itself calls none: the prefix byte (R62, "not an instruction") and the eleven illegal
values (R74). -/

namespace Sys2Proof

/-- The table row of the prefix byte 0xCB (48_system.md R245: "is the prefix, not an instruction"). -/
def Instr.isPrefixRow : Instr → Bool
  | .prefixCb => true
  | _ => false

/-- For an ILLEGAL row of the table, the opcode byte that has no entry (30_encoding.md R74; 48_system.md R246). -/
def Instr.illegalByte : Instr → Option Byte
  | .illegalD3 => some 0xD3#8
  | .illegalDB => some 0xDB#8
  | .illegalDD => some 0xDD#8
  | .illegalE3 => some 0xE3#8
  | .illegalE4 => some 0xE4#8
  | .illegalEB => some 0xEB#8
  | .illegalEC => some 0xEC#8
  | .illegalED => some 0xED#8
  | .illegalF4 => some 0xF4#8
  | .illegalFC => some 0xFC#8
  | .illegalFD => some 0xFD#8
  | _ => none

/-- One of the 105 instruction forms (30_encoding.md R76): neither the prefix row nor an illegal row. -/
def Instr.wellFormed (i : Instr) : Bool :=
  !i.isPrefixRow && i.illegalByte.isNone

end Sys2Proof
end

