-- ==== Sys2Proof/Decode.lean ====
section
/-! DEFINITION. The instruction decoder: the two static 256-entry tables and the multiplexer that the prefix byte drives
(30_encoding.md R60 to R66, R74, R75, R79), decoding of a list of bytes, and the encoder written from the `enc` column of
the table of forms (30_encoding.md section 6.3). The opcode values are those of spec/opcode_table.json, which the spec itself
takes from the published table (PRESUMED, notes/assumptions/7.md). -/

namespace Sys2Proof

/-! ## Operand codes -/

/-- The 3-bit register code (10_state.md R21): code 6 is HL-indirect and no register. -/
def Reg8.ofCode (k : BitVec 3) : Option Reg8 :=
  match k with
  | 0#3 => some .b
  | 1#3 => some .c
  | 2#3 => some .d
  | 3#3 => some .e
  | 4#3 => some .h
  | 5#3 => some .l
  | 7#3 => some .a
  | _ => none

/-- The register code of a register (10_state.md R21). -/
def Reg8.code : Reg8 → BitVec 3
  | .b => 0#3
  | .c => 1#3
  | .d => 2#3
  | .e => 3#3
  | .h => 4#3
  | .l => 5#3
  | .a => 7#3

/-- The code `p` of `rr`: 0 BC, 1 DE, 2 HL, 3 SP (30_encoding.md R71). -/
def RR.ofCode (p : BitVec 2) : RR :=
  match p with
  | 0#2 => .bc
  | 1#2 => .de
  | 2#2 => .hl
  | _ => .sp

/-- The code of a pair operand (30_encoding.md R71). -/
def RR.code : RR → BitVec 2
  | .bc => 0#2
  | .de => 1#2
  | .hl => 2#2
  | .sp => 3#2

/-- The code `q` of a stack pair: 0 BC, 1 DE, 2 HL; 3 is AF and no pair view (30_encoding.md R71, 10_state.md R27). -/
def Pair.ofCode (q : BitVec 2) : Option Pair :=
  match q with
  | 0#2 => some .bc
  | 1#2 => some .de
  | 2#2 => some .hl
  | _ => none

/-- The code of a stack pair (30_encoding.md R71). -/
def Pair.code : Pair → BitVec 2
  | .bc => 0#2
  | .de => 1#2
  | .hl => 2#2

/-- The condition code: 0 NZ, 1 Z, 2 NC, 3 C (30_encoding.md R72). -/
def Cond.ofCode (c : BitVec 2) : Cond :=
  match c with
  | 0#2 => .nz
  | 1#2 => .z
  | 2#2 => .nc
  | _ => .c

/-- The code of a condition (30_encoding.md R72). -/
def Cond.code : Cond → BitVec 2
  | .nz => 0#2
  | .z => 1#2
  | .nc => 2#2
  | .c => 3#2

/-! ## The two tables -/

/-- What the primary table holds for a byte (30_encoding.md R60, R61, R64): an instruction by its format, the prefix marker
(48_system.md R245) or nothing. -/
inductive Entry where
  /-- format OP: the byte alone is the instruction -/
  | op (i : Instr)
  /-- formats OP_N and OP_E: one immediate byte follows -/
  | opN (f : Byte → Instr)
  /-- format OP_NN: one immediate word follows, low byte first -/
  | opNN (f : Word → Instr)
  /-- the byte 0xCB: the prefixed table is indexed by the byte that follows -/
  | prefixMark
  /-- no entry: "absent entries yield none (illegal opcode)"; `row` is the ILLEGAL row of the opcode table for this byte -/
  | absent (row : Instr)

/-- A row whose operand is a register, or its neighbour row for code 6, HL-indirect (30_encoding.md R70). -/
def regOrHl (k : BitVec 3) (reg : Reg8 → Instr) (hl : Instr) : Instr :=
  match Reg8.ofCode k with
  | some r => reg r
  | none => hl

/-- The primary table, opcodes 0x00 to 0x3F. -/
def primaryQuarter0 (y z : BitVec 3) : Entry :=
  match z with
  | 0#3 =>
    match y with
    | 0#3 => .op .nop
    | 1#3 => .opNN .ldNnSp
    | 2#3 => .op .stop
    | 3#3 => .opN .jrE
    | _ => .opN (.jrCcE (Cond.ofCode (fieldC y)))
  | 1#3 =>
    match fieldQ y with
    | 0#1 => .opNN (.ldRRNn (RR.ofCode (fieldP y)))
    | _ => .op (.addHlRR (RR.ofCode (fieldP y)))
  | 2#3 =>
    match y with
    | 0#3 => .op .ldBcA
    | 1#3 => .op .ldABc
    | 2#3 => .op .ldDeA
    | 3#3 => .op .ldADe
    | 4#3 => .op .ldHlIncA
    | 5#3 => .op .ldAHlInc
    | 6#3 => .op .ldHlDecA
    | _ => .op .ldAHlDec
  | 3#3 =>
    match fieldQ y with
    | 0#1 => .op (.incRR (RR.ofCode (fieldP y)))
    | _ => .op (.decRR (RR.ofCode (fieldP y)))
  | 4#3 => .op (regOrHl y .incR .incHl)
  | 5#3 => .op (regOrHl y .decR .decHl)
  | 6#3 =>
    match Reg8.ofCode y with
    | some r => .opN (.ldRegN r)
    | none => .opN .ldHlN
  | _ =>
    match y with
    | 0#3 => .op .rlca
    | 1#3 => .op .rrca
    | 2#3 => .op .rla
    | 3#3 => .op .rra
    | 4#3 => .op .daa
    | 5#3 => .op .cpl
    | 6#3 => .op .scf
    | _ => .op .ccf

/-- The primary table, opcodes 0x40 to 0x7F: the `LD` block, and HALT in the place of `LD (HL),(HL)`. -/
def primaryQuarter1 (y z : BitVec 3) : Entry :=
  match Reg8.ofCode y, Reg8.ofCode z with
  | some rd, some rs => .op (.ldReg rd rs)
  | some rd, none => .op (.ldRegHl rd)
  | none, some rs => .op (.ldHlReg rs)
  | none, none => .op .halt

/-- The primary table, opcodes 0x80 to 0xBF: the eight accumulator operations by `y` (30_encoding.md R66). -/
def primaryQuarter2 (y z : BitVec 3) : Entry :=
  match y with
  | 0#3 => .op (regOrHl z .addAR .addAHl)
  | 1#3 => .op (regOrHl z .adcAR .adcAHl)
  | 2#3 => .op (regOrHl z .subR .subHl)
  | 3#3 => .op (regOrHl z .sbcAR .sbcAHl)
  | 4#3 => .op (regOrHl z .andR .andHl)
  | 5#3 => .op (regOrHl z .xorR .xorHl)
  | 6#3 => .op (regOrHl z .orR .orHl)
  | _ => .op (regOrHl z .cpR .cpHl)

/-- The primary table, opcodes 0xC0 to 0xFF. -/
def primaryQuarter3 (y z : BitVec 3) : Entry :=
  match z with
  | 0#3 =>
    match y with
    | 4#3 => .opN .ldhNA
    | 5#3 => .opN .addSpE
    | 6#3 => .opN .ldhAN
    | 7#3 => .opN .ldHlSpE
    | _ => .op (.retCc (Cond.ofCode (fieldC y)))
  | 1#3 =>
    match fieldQ y with
    | 0#1 =>
      match Pair.ofCode (fieldP y) with
      | some q => .op (.popPair q)
      | none => .op .popAf
    | _ =>
      match fieldP y with
      | 0#2 => .op .ret
      | 1#2 => .op .reti
      | 2#2 => .op .jpHl
      | _ => .op .ldSpHl
  | 2#3 =>
    match y with
    | 4#3 => .op .ldCA
    | 5#3 => .opNN .ldNnA
    | 6#3 => .op .ldAC
    | 7#3 => .opNN .ldANn
    | _ => .opNN (.jpCcNn (Cond.ofCode (fieldC y)))
  | 3#3 =>
    match y with
    | 0#3 => .opNN .jpNn
    | 1#3 => .prefixMark
    | 2#3 => .absent .illegalD3
    | 3#3 => .absent .illegalDB
    | 4#3 => .absent .illegalE3
    | 5#3 => .absent .illegalEB
    | 6#3 => .op .di
    | _ => .op .ei
  | 4#3 =>
    match y with
    | 4#3 => .absent .illegalE4
    | 5#3 => .absent .illegalEC
    | 6#3 => .absent .illegalF4
    | 7#3 => .absent .illegalFC
    | _ => .opNN (.callCcNn (Cond.ofCode (fieldC y)))
  | 5#3 =>
    match fieldQ y with
    | 0#1 =>
      match Pair.ofCode (fieldP y) with
      | some q => .op (.pushPair q)
      | none => .op .pushAf
    | _ =>
      match fieldP y with
      | 0#2 => .opNN .callNn
      | 1#2 => .absent .illegalDD
      | 2#2 => .absent .illegalED
      | _ => .absent .illegalFD
  | 6#3 =>
    match y with
    | 0#3 => .opN .addAN
    | 1#3 => .opN .adcAN
    | 2#3 => .opN .subN
    | 3#3 => .opN .sbcAN
    | 4#3 => .opN .andN
    | 5#3 => .opN .xorN
    | 6#3 => .opN .orN
    | _ => .opN .cpN
  | _ => .op (.rst y)

/-- The primary table, indexed by an unprefixed opcode byte (30_encoding.md R60, section 6.1). -/
def primaryTable (op : Byte) : Entry :=
  match fieldX op with
  | 0#2 => primaryQuarter0 (fieldY op) (fieldZ op)
  | 1#2 => primaryQuarter1 (fieldY op) (fieldZ op)
  | 2#2 => primaryQuarter2 (fieldY op) (fieldZ op)
  | _ => primaryQuarter3 (fieldY op) (fieldZ op)

/-- The rotate or shift of the prefixed table, by `y` (30_encoding.md R66). -/
def prefixedRotate (y z : BitVec 3) : Instr :=
  match y with
  | 0#3 => regOrHl z .rlcR .rlcHl
  | 1#3 => regOrHl z .rrcR .rrcHl
  | 2#3 => regOrHl z .rlR .rlHl
  | 3#3 => regOrHl z .rrR .rrHl
  | 4#3 => regOrHl z .slaR .slaHl
  | 5#3 => regOrHl z .sraR .sraHl
  | 6#3 => regOrHl z .swapR .swapHl
  | _ => regOrHl z .srlR .srlHl

/-- The prefixed table, indexed by the byte after 0xCB; it has no absent entry (30_encoding.md R75, section 6.2). -/
def prefixedTable (op : Byte) : Instr :=
  match fieldX op with
  | 0#2 => prefixedRotate (fieldY op) (fieldZ op)
  | 1#2 => regOrHl (fieldZ op) (.bitR (fieldY op)) (.bitHl (fieldY op))
  | 2#2 => regOrHl (fieldZ op) (.resR (fieldY op)) (.resHl (fieldY op))
  | _ => regOrHl (fieldZ op) (.setR (fieldY op)) (.setHl (fieldY op))

/-- The answer of the stand-alone decoder `(opcode byte, prefixed flag) → instruction | none` and its prefix marker
(30_encoding.md R60; 48_system.md R245; 60_exceptions.md R254). -/
inductive TableAnswer where
  | instruction
  | marker
  | none
deriving DecidableEq, Repr

/-- Which of the three answers the table selected by `prefixed` gives for a byte (60_exceptions.md R254). An entry of the prefixed table is
an instruction where it is one of the forms (30_encoding.md R75 says that all 256 are). -/
def tableAnswer (byte : Byte) (prefixed : Bool) : TableAnswer :=
  if prefixed then
    if (prefixedTable byte).wellFormed then .instruction else .none
  else
    match primaryTable byte with
    | .op _ => .instruction
    | .opN _ => .instruction
    | .opNN _ => .instruction
    | .prefixMark => .marker
    | .absent _ => .none

/-! ## Decoding a list of bytes -/

/-- Why a list of bytes is no instruction: it ends too early. (An illegal opcode is no error here: it decodes to its row of the
opcode table, whose meaning is the fault; notes/assumptions/11.md.) -/
inductive DecodeError where
  /-- there is no first byte -/
  | noOpcode
  /-- the immediate bytes of the form are missing -/
  | noImmediate
deriving DecidableEq, Repr

/-- Decode the instruction at the head of a list of bytes, and give the rest (30_encoding.md R62 to R64, R67 to R69). A lone prefix
byte, with nothing behind it, gives the row of the prefix (48_system.md R245: "a `Prefix` marker for it, never none"). -/
def decode : List Byte → Except DecodeError (Instr × List Byte)
  | [] => .error .noOpcode
  | b0 :: rest =>
    match primaryTable b0 with
    | .op i => .ok (i, rest)
    | .opN f =>
      match rest with
      | n :: rest1 => .ok (f n, rest1)
      | [] => .error .noImmediate
    | .opNN f =>
      match rest with
      | lo :: hi :: rest2 => .ok (f (mkWord hi lo), rest2)
      | _ => .error .noImmediate
    | .prefixMark =>
      match rest with
      | op :: rest1 => .ok (prefixedTable op, rest1)
      | [] => .ok (.prefixCb, [])
    | .absent row => .ok (row, rest)

/-! ## The encoder -/

/-- The bytes of a form with an immediate word, low byte first (20_memory.md R42, 30_encoding.md R69). -/
def withWord (op : Byte) (nn : Word) : List Byte := [op, loByte nn, hiByte nn]

/-- The bytes of an instruction, from the `enc` column of 30_encoding.md section 6.3: fixed bits as written there, then the code of
each field, then the immediate bytes. -/
def encode : Instr → List Byte
  | .addAR r => [0b10000#5 ++ r.code]
  | .addAHl => [0b10000110#8]
  | .addAN n => [0b11000110#8, n]
  | .adcAR r => [0b10001#5 ++ r.code]
  | .adcAHl => [0b10001110#8]
  | .adcAN n => [0b11001110#8, n]
  | .subR r => [0b10010#5 ++ r.code]
  | .subHl => [0b10010110#8]
  | .subN n => [0b11010110#8, n]
  | .sbcAR r => [0b10011#5 ++ r.code]
  | .sbcAHl => [0b10011110#8]
  | .sbcAN n => [0b11011110#8, n]
  | .andR r => [0b10100#5 ++ r.code]
  | .andHl => [0b10100110#8]
  | .andN n => [0b11100110#8, n]
  | .xorR r => [0b10101#5 ++ r.code]
  | .xorHl => [0b10101110#8]
  | .xorN n => [0b11101110#8, n]
  | .orR r => [0b10110#5 ++ r.code]
  | .orHl => [0b10110110#8]
  | .orN n => [0b11110110#8, n]
  | .cpR r => [0b10111#5 ++ r.code]
  | .cpHl => [0b10111110#8]
  | .cpN n => [0b11111110#8, n]
  | .incR r => [0b00#2 ++ r.code ++ 0b100#3]
  | .incHl => [0b00110100#8]
  | .decR r => [0b00#2 ++ r.code ++ 0b101#3]
  | .decHl => [0b00110101#8]
  | .incRR p => [0b00#2 ++ p.code ++ 0b0011#4]
  | .decRR p => [0b00#2 ++ p.code ++ 0b1011#4]
  | .addHlRR p => [0b00#2 ++ p.code ++ 0b1001#4]
  | .addSpE e => [0b11101000#8, e]
  | .ldHlSpE e => [0b11111000#8, e]
  | .rlca => [0b00000111#8]
  | .rrca => [0b00001111#8]
  | .rla => [0b00010111#8]
  | .rra => [0b00011111#8]
  | .rlcR r => [0xCB#8, 0b00000#5 ++ r.code]
  | .rlcHl => [0xCB#8, 0b00000110#8]
  | .rrcR r => [0xCB#8, 0b00001#5 ++ r.code]
  | .rrcHl => [0xCB#8, 0b00001110#8]
  | .rlR r => [0xCB#8, 0b00010#5 ++ r.code]
  | .rlHl => [0xCB#8, 0b00010110#8]
  | .rrR r => [0xCB#8, 0b00011#5 ++ r.code]
  | .rrHl => [0xCB#8, 0b00011110#8]
  | .slaR r => [0xCB#8, 0b00100#5 ++ r.code]
  | .slaHl => [0xCB#8, 0b00100110#8]
  | .sraR r => [0xCB#8, 0b00101#5 ++ r.code]
  | .sraHl => [0xCB#8, 0b00101110#8]
  | .swapR r => [0xCB#8, 0b00110#5 ++ r.code]
  | .swapHl => [0xCB#8, 0b00110110#8]
  | .srlR r => [0xCB#8, 0b00111#5 ++ r.code]
  | .srlHl => [0xCB#8, 0b00111110#8]
  | .bitR b r => [0xCB#8, 0b01#2 ++ b ++ r.code]
  | .bitHl b => [0xCB#8, 0b01#2 ++ b ++ 0b110#3]
  | .resR b r => [0xCB#8, 0b10#2 ++ b ++ r.code]
  | .resHl b => [0xCB#8, 0b10#2 ++ b ++ 0b110#3]
  | .setR b r => [0xCB#8, 0b11#2 ++ b ++ r.code]
  | .setHl b => [0xCB#8, 0b11#2 ++ b ++ 0b110#3]
  | .daa => [0b00100111#8]
  | .cpl => [0b00101111#8]
  | .scf => [0b00110111#8]
  | .ccf => [0b00111111#8]
  | .ldReg rd rs => [0b01#2 ++ rd.code ++ rs.code]
  | .ldRegN rd n => [0b00#2 ++ rd.code ++ 0b110#3, n]
  | .ldRegHl rd => [0b01#2 ++ rd.code ++ 0b110#3]
  | .ldHlReg rs => [0b01110#5 ++ rs.code]
  | .ldHlN n => [0b00110110#8, n]
  | .ldABc => [0b00001010#8]
  | .ldADe => [0b00011010#8]
  | .ldBcA => [0b00000010#8]
  | .ldDeA => [0b00010010#8]
  | .ldANn nn => withWord 0b11111010#8 nn
  | .ldNnA nn => withWord 0b11101010#8 nn
  | .ldhAN n => [0b11110000#8, n]
  | .ldhNA n => [0b11100000#8, n]
  | .ldAC => [0b11110010#8]
  | .ldCA => [0b11100010#8]
  | .ldHlIncA => [0b00100010#8]
  | .ldAHlInc => [0b00101010#8]
  | .ldHlDecA => [0b00110010#8]
  | .ldAHlDec => [0b00111010#8]
  | .ldRRNn p nn => withWord (0b00#2 ++ p.code ++ 0b0001#4) nn
  | .ldNnSp nn => withWord 0b00001000#8 nn
  | .ldSpHl => [0b11111001#8]
  | .pushPair q => [0b11#2 ++ q.code ++ 0b0101#4]
  | .pushAf => [0b11110101#8]
  | .popPair q => [0b11#2 ++ q.code ++ 0b0001#4]
  | .popAf => [0b11110001#8]
  | .jpNn nn => withWord 0b11000011#8 nn
  | .jpCcNn cc nn => withWord (0b110#3 ++ cc.code ++ 0b010#3) nn
  | .jpHl => [0b11101001#8]
  | .jrE e => [0b00011000#8, e]
  | .jrCcE cc e => [0b001#3 ++ cc.code ++ 0b000#3, e]
  | .callNn nn => withWord 0b11001101#8 nn
  | .callCcNn cc nn => withWord (0b110#3 ++ cc.code ++ 0b100#3) nn
  | .ret => [0b11001001#8]
  | .retCc cc => [0b110#3 ++ cc.code ++ 0b000#3]
  | .reti => [0b11011001#8]
  | .rst t => [0b11#2 ++ t ++ 0b111#3]
  | .nop => [0b00000000#8]
  | .halt => [0b01110110#8]
  | .stop => [0b00010000#8]
  | .di => [0b11110011#8]
  | .ei => [0b11111011#8]
  | .prefixCb => [0b11001011#8]
  | .illegalD3 => [0xD3#8]
  | .illegalDB => [0xDB#8]
  | .illegalDD => [0xDD#8]
  | .illegalE3 => [0xE3#8]
  | .illegalE4 => [0xE4#8]
  | .illegalEB => [0xEB#8]
  | .illegalEC => [0xEC#8]
  | .illegalED => [0xED#8]
  | .illegalF4 => [0xF4#8]
  | .illegalFC => [0xFC#8]
  | .illegalFD => [0xFD#8]

/-- How many bytes a step fetches for a row before it executes it: the `length` column of spec/opcode_table.json, and 1 for the rows
the table gives no length (an ILLEGAL value, 20_memory.md R46 (3)) and for STOP whatever STOP_LEN is, since "the byte at
`pc + 1` is skipped without being read" (48_system.md R242). -/
def Instr.fetchLength : Instr → Nat
  | .addAR _ | .addAHl | .adcAR _ | .adcAHl | .subR _ | .subHl | .sbcAR _ | .sbcAHl => 1
  | .andR _ | .andHl | .xorR _ | .xorHl | .orR _ | .orHl | .cpR _ | .cpHl => 1
  | .addAN _ | .adcAN _ | .subN _ | .sbcAN _ | .andN _ | .xorN _ | .orN _ | .cpN _ => 2
  | .incR _ | .incHl | .decR _ | .decHl | .incRR _ | .decRR _ | .addHlRR _ => 1
  | .addSpE _ | .ldHlSpE _ => 2
  | .rlca | .rrca | .rla | .rra => 1
  | .rlcR _ | .rlcHl | .rrcR _ | .rrcHl | .rlR _ | .rlHl | .rrR _ | .rrHl => 2
  | .slaR _ | .slaHl | .sraR _ | .sraHl | .swapR _ | .swapHl | .srlR _ | .srlHl => 2
  | .bitR _ _ | .bitHl _ | .resR _ _ | .resHl _ | .setR _ _ | .setHl _ => 2
  | .daa | .cpl | .scf | .ccf => 1
  | .ldReg _ _ | .ldRegHl _ | .ldHlReg _ => 1
  | .ldRegN _ _ | .ldHlN _ => 2
  | .ldABc | .ldADe | .ldBcA | .ldDeA => 1
  | .ldANn _ | .ldNnA _ => 3
  | .ldhAN _ | .ldhNA _ => 2
  | .ldAC | .ldCA | .ldHlIncA | .ldAHlInc | .ldHlDecA | .ldAHlDec => 1
  | .ldRRNn _ _ | .ldNnSp _ => 3
  | .ldSpHl | .pushPair _ | .pushAf | .popPair _ | .popAf => 1
  | .jpNn _ | .jpCcNn _ _ | .callNn _ | .callCcNn _ _ => 3
  | .jrE _ | .jrCcE _ _ => 2
  | .jpHl | .ret | .retCc _ | .reti | .rst _ => 1
  | .nop | .halt | .stop | .di | .ei | .prefixCb => 1
  | .illegalD3 | .illegalDB | .illegalDD | .illegalE3 | .illegalE4 | .illegalEB => 1
  | .illegalEC | .illegalED | .illegalF4 | .illegalFC | .illegalFD => 1

/-! ## The host's question -/

/-- The bytes of an instruction whose bits are `w`, bit 0 the least significant bit of the first byte (notes/assumptions/12.md). -/
def tableBytes (nbits w : Nat) : List Byte :=
  (List.range (nbits / 8)).map fun k => BitVec.ofNat 8 (w >>> (8 * k))

/-- The instruction the decoder reads from the `nbits` bits `w`. Where these end before the immediate of the form, the bytes behind
them are zero. -/
def decodeTableWord (nbits w : Nat) : Option Instr :=
  match decode (tableBytes nbits w) with
  | .ok (i, _) => some i
  | .error _ =>
    match decode (tableBytes nbits w ++ [0#8, 0#8]) with
    | .ok (i, _) => some i
    | .error _ => none

end Sys2Proof
end

