-- ==== Sys2Proof/Machine/Rotate.lean ====
section
/-! DEFINITION. The meanings of the rotates, shifts, swap and bit operations (43_rotate_shift_bit.md R150 to R175). -/

namespace Sys2Proof.Machine

/-! ## Accumulator rotates: Z, N and H are not written -/

/-- `RLCA` (43_rotate_shift_bit.md R150). -/
def execRlca (s : State) : Answer :=
  modify8 (rlc8 s.f true) (.reg .a) 1#16 s

/-- `RRCA` (43_rotate_shift_bit.md R151). -/
def execRrca (s : State) : Answer :=
  modify8 (rrc8 s.f true) (.reg .a) 1#16 s

/-- `RLA` (43_rotate_shift_bit.md R152). -/
def execRla (s : State) : Answer :=
  modify8 (rl8 s.f true) (.reg .a) 1#16 s

/-- `RRA` (43_rotate_shift_bit.md R153). -/
def execRra (s : State) : Answer :=
  modify8 (rr8 s.f true) (.reg .a) 1#16 s

/-! ## Prefixed rotates, shifts and swap -/

/-- `RLC r` (43_rotate_shift_bit.md R154). -/
def execRlcR (r : Reg8) (s : State) : Answer :=
  modify8 (rlc8 s.f false) (.reg r) 2#16 s

/-- `RLC (HL)` (43_rotate_shift_bit.md R155). -/
def execRlcHl (s : State) : Answer :=
  modify8 (rlc8 s.f false) .hlInd 2#16 s

/-- `RRC r` (43_rotate_shift_bit.md R156). -/
def execRrcR (r : Reg8) (s : State) : Answer :=
  modify8 (rrc8 s.f false) (.reg r) 2#16 s

/-- `RRC (HL)` (43_rotate_shift_bit.md R157). -/
def execRrcHl (s : State) : Answer :=
  modify8 (rrc8 s.f false) .hlInd 2#16 s

/-- `RL r` (43_rotate_shift_bit.md R158). -/
def execRlR (r : Reg8) (s : State) : Answer :=
  modify8 (rl8 s.f false) (.reg r) 2#16 s

/-- `RL (HL)` (43_rotate_shift_bit.md R159). -/
def execRlHl (s : State) : Answer :=
  modify8 (rl8 s.f false) .hlInd 2#16 s

/-- `RR r` (43_rotate_shift_bit.md R160). -/
def execRrR (r : Reg8) (s : State) : Answer :=
  modify8 (rr8 s.f false) (.reg r) 2#16 s

/-- `RR (HL)` (43_rotate_shift_bit.md R161). -/
def execRrHl (s : State) : Answer :=
  modify8 (rr8 s.f false) .hlInd 2#16 s

/-- `SLA r` (43_rotate_shift_bit.md R162). -/
def execSlaR (r : Reg8) (s : State) : Answer :=
  modify8 (sla8 s.f) (.reg r) 2#16 s

/-- `SLA (HL)` (43_rotate_shift_bit.md R163). -/
def execSlaHl (s : State) : Answer :=
  modify8 (sla8 s.f) .hlInd 2#16 s

/-- `SRA r` (43_rotate_shift_bit.md R164). -/
def execSraR (r : Reg8) (s : State) : Answer :=
  modify8 (sra8 s.f) (.reg r) 2#16 s

/-- `SRA (HL)` (43_rotate_shift_bit.md R165). -/
def execSraHl (s : State) : Answer :=
  modify8 (sra8 s.f) .hlInd 2#16 s

/-- `SWAP r` (43_rotate_shift_bit.md R166). -/
def execSwapR (r : Reg8) (s : State) : Answer :=
  modify8 swap8 (.reg r) 2#16 s

/-- `SWAP (HL)` (43_rotate_shift_bit.md R167). -/
def execSwapHl (s : State) : Answer :=
  modify8 swap8 .hlInd 2#16 s

/-- `SRL r` (43_rotate_shift_bit.md R168). -/
def execSrlR (r : Reg8) (s : State) : Answer :=
  modify8 (srl8 s.f) (.reg r) 2#16 s

/-- `SRL (HL)` (43_rotate_shift_bit.md R169). -/
def execSrlHl (s : State) : Answer :=
  modify8 (srl8 s.f) .hlInd 2#16 s

/-! ## Bit test, reset and set -/

/-- `BIT b,r` (43_rotate_shift_bit.md R170): the operand is not written. -/
def execBitR (b : BitVec 3) (r : Reg8) (s : State) : Answer :=
  testBit b (.reg r) s

/-- `BIT b,(HL)` (43_rotate_shift_bit.md R171): one read, no write. -/
def execBitHl (b : BitVec 3) (s : State) : Answer :=
  testBit b .hlInd s

/-- `RES b,r` (43_rotate_shift_bit.md R172): back to the selected register, no flags. -/
def execResR (b : BitVec 3) (r : Reg8) (s : State) : Answer :=
  modifyBits (res8 b) (.reg r) s

/-- `RES b,(HL)` (43_rotate_shift_bit.md R173): the write is issued even when the byte does not change. -/
def execResHl (b : BitVec 3) (s : State) : Answer :=
  modifyBits (res8 b) .hlInd s

/-- `SET b,r` (43_rotate_shift_bit.md R174). -/
def execSetR (b : BitVec 3) (r : Reg8) (s : State) : Answer :=
  modifyBits (set8 b) (.reg r) s

/-- `SET b,(HL)` (43_rotate_shift_bit.md R175). -/
def execSetHl (b : BitVec 3) (s : State) : Answer :=
  modifyBits (set8 b) .hlInd s

end Sys2Proof.Machine
end

