-- ==== Sys2Proof/Machine/Prefixed.lean ====
section
/-! DEFINITION. The meaning of the table row PREFIX CB (48_system.md R245): "A step whose first byte is 0xCB fetches the byte at `pc + 1`,
decodes it in the prefixed table and executes that instruction with total length 2". The fetch (Machine/Fetch.lean) recognises
the prefix before the decoder is consulted (30_encoding.md R62), so no step dispatches this row; executing it does the same
(notes/assumptions/10.md). -/

namespace Sys2Proof.Machine

/-- The register form or the `(HL)` form of a prefixed row, by `s = op[2:0]` (43_rotate_shift_bit.md). -/
def execRegOrHl (k : BitVec 3) (reg : Reg8 → State → Answer) (hl : State → Answer) (s : State) : Answer :=
  match Reg8.ofCode k with
  | some r => reg r s
  | none => hl s

/-- The rotates and shifts of the prefixed table, by `y = op[5:3]` (30_encoding.md R66). -/
def execPrefixedRotate (y z : BitVec 3) (s : State) : Answer :=
  match y with
  | 0#3 => execRegOrHl z execRlcR execRlcHl s
  | 1#3 => execRegOrHl z execRrcR execRrcHl s
  | 2#3 => execRegOrHl z execRlR execRlHl s
  | 3#3 => execRegOrHl z execRrR execRrHl s
  | 4#3 => execRegOrHl z execSlaR execSlaHl s
  | 5#3 => execRegOrHl z execSraR execSraHl s
  | 6#3 => execRegOrHl z execSwapR execSwapHl s
  | _ => execRegOrHl z execSrlR execSrlHl s

/-- Execute the entry of the prefixed table for a byte (30_encoding.md section 6.2). -/
def execPrefixedEntry (op : Byte) (s : State) : Answer :=
  match fieldX op with
  | 0#2 => execPrefixedRotate (fieldY op) (fieldZ op) s
  | 1#2 => execRegOrHl (fieldZ op) (execBitR (fieldY op)) (execBitHl (fieldY op)) s
  | 2#2 => execRegOrHl (fieldZ op) (execResR (fieldY op)) (execResHl (fieldY op)) s
  | _ => execRegOrHl (fieldZ op) (execSetR (fieldY op)) (execSetHl (fieldY op)) s

/-- `PREFIX CB` (48_system.md R245), its own byte being fetched already. -/
def execPrefixCb (s : State) : Answer :=
  let op := busRead (s.pc + 1#16) s
  execPrefixedEntry op.1 op.2

end Sys2Proof.Machine
end

