-- ==== Sys2Proof/Machine/System.lean ====
section
/-! DEFINITION. The meanings of the system instructions and of the eleven illegal opcode values (48_system.md R240 to R244, R246). The row PREFIX CB
(R245) is in Machine/Prefixed.lean. -/

namespace Sys2Proof.Machine

/-! ## Signals to the host and the external controller -/

/-- `NOP` (48_system.md R240). -/
def execNop (s : State) : Answer :=
  advance 1#16 .none s

/-- `HALT` (48_system.md R241): "the core itself does not stop". -/
def execHalt (s : State) : Answer :=
  advance 1#16 .halt s

/-- `STOP` (48_system.md R242): length STOP_LEN, the byte behind it never read. -/
def execStop (s : State) : Answer :=
  advance s.config.stopLen.toWord .stop s

/-- `DI` (48_system.md R243): no interrupt-enable bit in the core. -/
def execDi (s : State) : Answer :=
  advance 1#16 .intDisable s

/-- `EI` (48_system.md R244): the signal is given in the same step. -/
def execEi (s : State) : Answer :=
  advance 1#16 .intEnable s

/-! ## The illegal opcodes: `Fault(IllegalOpcode)`, nothing written (48_system.md R246) -/

/-- 0xD3 has no table entry (30_encoding.md R74; 48_system.md R246). -/
def execIllegalD3 (_s : State) : Answer :=
  raiseIllegalOpcode 0xD3#8 false

/-- 0xDB has no table entry (30_encoding.md R74; 48_system.md R246). -/
def execIllegalDB (_s : State) : Answer :=
  raiseIllegalOpcode 0xDB#8 false

/-- 0xDD has no table entry (30_encoding.md R74; 48_system.md R246). -/
def execIllegalDD (_s : State) : Answer :=
  raiseIllegalOpcode 0xDD#8 false

/-- 0xE3 has no table entry (30_encoding.md R74; 48_system.md R246). -/
def execIllegalE3 (_s : State) : Answer :=
  raiseIllegalOpcode 0xE3#8 false

/-- 0xE4 has no table entry (30_encoding.md R74; 48_system.md R246). -/
def execIllegalE4 (_s : State) : Answer :=
  raiseIllegalOpcode 0xE4#8 false

/-- 0xEB has no table entry (30_encoding.md R74; 48_system.md R246). -/
def execIllegalEB (_s : State) : Answer :=
  raiseIllegalOpcode 0xEB#8 false

/-- 0xEC has no table entry (30_encoding.md R74; 48_system.md R246). -/
def execIllegalEC (_s : State) : Answer :=
  raiseIllegalOpcode 0xEC#8 false

/-- 0xED has no table entry (30_encoding.md R74; 48_system.md R246). -/
def execIllegalED (_s : State) : Answer :=
  raiseIllegalOpcode 0xED#8 false

/-- 0xF4 has no table entry (30_encoding.md R74; 48_system.md R246). -/
def execIllegalF4 (_s : State) : Answer :=
  raiseIllegalOpcode 0xF4#8 false

/-- 0xFC has no table entry (30_encoding.md R74; 48_system.md R246). -/
def execIllegalFC (_s : State) : Answer :=
  raiseIllegalOpcode 0xFC#8 false

/-- 0xFD has no table entry (30_encoding.md R74; 48_system.md R246). -/
def execIllegalFD (_s : State) : Answer :=
  raiseIllegalOpcode 0xFD#8 false

end Sys2Proof.Machine
end

