-- ==== Sys2Proof/Machine/Fetch.lean ====
section
/-! DEFINITION. The phases FETCH1, FETCH2 and DECODE of a step and the reading of the immediate bytes (30_encoding.md R63, R67 to R69;
20_memory.md R46): every read of the instruction's own bytes, in order, each recorded, none written back. The order of bus
transactions is the spec's: the immediates are read after decoding and before any data access (notes/assumptions/8.md). -/

namespace Sys2Proof.Machine

/-- Fetch and decode the instruction at `pc`: the row of the opcode table with its immediate, and the state after the reads. For an
illegal opcode "the byte after [it] is not read" (30_encoding.md R74). -/
def fetch (s : State) : Instr × State :=
  let b0 := busRead s.pc s
  match primaryTable b0.1 with
  | .op i => (i, b0.2)
  | .opN f =>
    let n := busRead (s.pc + 1#16) b0.2
    (f n.1, n.2)
  | .opNN f =>
    let nn := busReadWord (s.pc + 1#16) b0.2
    (f nn.1, nn.2)
  | .prefixMark =>
    let op := busRead (s.pc + 1#16) b0.2
    (prefixedTable op.1, op.2)
  | .absent row => (row, b0.2)

/-- The optional decode record of a step (60_exceptions.md R262), "an output of the step, [with] no effect on execution"
(notes/assumptions/26.md). -/
structure DecodeRecord where
  /-- `pc` at the start of the step -/
  pc : Word
  /-- the one or two bytes fetched in FETCH1 and FETCH2 -/
  bytes : List Byte
  /-- whether the second byte indexed the prefixed table -/
  prefixed : Bool
  /-- the decoded instruction, or none for an illegal opcode -/
  form : Option Instr
deriving DecidableEq, Repr

/-- The decode record of the step that starts in `s` (60_exceptions.md R262). -/
def decodeRecord (s : State) : DecodeRecord :=
  let b0 := busRead s.pc s
  match primaryTable b0.1 with
  | .prefixMark =>
    { pc := s.pc, bytes := [b0.1, (busRead (s.pc + 1#16) b0.2).1], prefixed := true, form := some (fetch s).1 }
  | .absent _ => { pc := s.pc, bytes := [b0.1], prefixed := false, form := none }
  | _ => { pc := s.pc, bytes := [b0.1], prefixed := false, form := some (fetch s).1 }

/-- Place bytes in plain RAM at an address and those behind it, with no bus transaction: the work of whoever loads a program, not of
the core (70_reset_and_hazards.md R283; notes/assumptions/13.md). -/
def placeBytes : Word → List Byte → Memory → Memory
  | _, [], m => m
  | addr, v :: rest, m => placeBytes (addr + 1#16) rest (m.write addr.toNat v)

/-- Drop the windows in which one of the three bytes from `addr` lies, so that plain RAM answers there. -/
def withoutWindowsAt (addr : Word) (windows : List Window) : List Window :=
  windows.filter fun w =>
    !(windowCovers w addr || windowCovers w (addr + 1#16) || windowCovers w (addr + 2#16))

/-- The three bytes of the longest instruction for the host's question: those of `w`, zeros behind them (notes/assumptions/12.md). -/
def instructionBytes (nbits w : Nat) : List Byte :=
  (tableBytes nbits w ++ [0#8, 0#8, 0#8]).take 3

end Sys2Proof.Machine
end

