-- ==== Sys2Proof/Machine/Step.lean ====
section
/-! DEFINITION. One step (00_scope.md R10; 30_encoding.md R63): fetch and decode, then execute and commit. -/

namespace Sys2Proof.Machine

/-- "`step()` performs exactly one fetch-decode-execute cycle" (00_scope.md R10): the meaning of the instruction at `pc`, in the state that
has recorded the reads of its bytes. -/
def step (s : State) : Host.Outcome State Fault Refusal :=
  exec (fetch s).1 (fetch s).2

/-- `s` with the instruction of the host's question in plain RAM at `pc`, where the next step fetches (notes/assumptions/12.md, 13.md). -/
def State.withFetchWord (s : State) (nbits w : Nat) : State :=
  { s with
    mem := placeBytes s.pc (instructionBytes nbits w) s.mem
    config := { s.config with external := withoutWindowsAt s.pc s.config.external } }

end Sys2Proof.Machine
end

