-- ==== Sys2Proof/Machine/Port.lean ====
section
/-! DEFINITION. The host's side of the block: its inputs `step`, reset and `skip`, the outcome it is answered, and the state the block is in
after each (00_scope.md R10, R11, R12; 60_exceptions.md R251, R253; 70_reset_and_hazards.md R280, R285). -/

namespace Sys2Proof.Machine

/-- The outcome of a step (00_scope.md R11): one of two, "there is no third outcome". -/
inductive StepOutcome where
  | ok (signal : Signal)
  | fault (byte : Byte) (prefixed : Bool)
deriving DecidableEq, Repr

/-- The addend `k in {1, 2}` of the input `skip(k)` (60_exceptions.md R253). -/
inductive SkipLen where
  | one
  | two
deriving DecidableEq, Repr

/-- What the host can send (00_scope.md R10). -/
inductive Input where
  | step
  | reset
  | skip (k : SkipLen)
deriving DecidableEq, Repr

/-- The state after a step that faults (60_exceptions.md R251): no register, flag, `sp`, `pc` or memory byte is written; the reads that
preceded decoding "have happened and are not undone". -/
def State.afterFault (s : State) : State := (fetch s).2

/-- Reset at any time (70_reset_and_hazards.md R280): every register from RESET_STATE, no bus transaction, memory not touched (R283). The
history and the configuration are no registers and stay (notes/assumptions/20.md). -/
def State.resetInput (s : State) : State :=
  let r := s.config.resetState
  { s with
    a := r.a, b := r.b, c := r.c, d := r.d, e := r.e, h := r.h, l := r.l
    f := r.f, sp := r.sp, pc := r.pc, signal := .none }

/-- `skip(k)`: `pc <- (pc + k) mod 65536`, "no bus transaction, nothing else written" (60_exceptions.md R253). -/
def State.skipBy (k : SkipLen) (s : State) : State :=
  match k with
  | .one => { s with pc := s.pc + 1#16 }
  | .two => { s with pc := s.pc + 2#16 }

/-- Whether the block has the input: `skip` is present only when HOST_SKIP is true (60_exceptions.md R253). -/
def hasInput (cfg : Config) : Input → Bool
  | .step => true
  | .reset => true
  | .skip _ => cfg.hostSkip

/-- The state after an input and, for a step, its outcome. An input the block does not have is answered `none`, and so would be a step that
is refused, which no step is. -/
def respond (input : Input) (s : State) : Option (State × Option StepOutcome) :=
  match input with
  | .step =>
    match step s with
    | .next t => some (t, some (.ok t.signal))
    | .fault (.illegalOpcode byte prefixed) => some (s.afterFault, some (.fault byte prefixed))
    | .refused _ => none
  | .reset => some (s.resetInput, none)
  | .skip k => if s.config.hostSkip then some (s.skipBy k, none) else none

end Sys2Proof.Machine
end

