-- ==== Sys2Proof/Safety.lean ====
section
/-! DEFINITION. What counts as a run, its end and its success (70_reset_and_hazards.md R285), and the invariants in whose terms claims speak:
canonical memory, and a history that agrees with the memory (20_memory.md R50). -/

namespace Sys2Proof.Machine

/-! ## The end of a run -/

/-- How a run ends. -/
inductive RunEnd where
  | success
  | failure
deriving DecidableEq, Repr

/-- "The run ends at the first step whose outcome is not `Ok(none)`, `Ok(int_enable)` or `Ok(int_disable)`; it ends successfully on
`Ok(halt)` (and `Ok(stop)`) ...; it ends in failure on `Fault`" (70_reset_and_hazards.md R285; notes/assumptions/27.md). -/
def StepOutcome.ends : StepOutcome → Option RunEnd
  | .ok .none => none
  | .ok .intEnable => none
  | .ok .intDisable => none
  | .ok .halt => some .success
  | .ok .stop => some .success
  | .fault _ _ => some .failure

/-- A run of at most `fuel` steps: the state it is in and how it ended, if it did. -/
def runSteps : Nat → State → State × Option RunEnd
  | 0, s => (s, none)
  | fuel + 1, s =>
    match respond .step s with
    | some (t, some outcome) =>
      match outcome.ends with
      | some e => (t, some e)
      | none => runSteps fuel t
    | _ => (s, none)

/-- A run that ends well within some number of steps. -/
def SafeRun (s : State) : Prop := ∃ fuel, (runSteps fuel s).2 = some .success

/-! ## Invariants -/

/-- The last value written to an address, if any, in a history whose newest event comes first. -/
def lastWrite (addr : Word) : List BusEvent → Option Byte
  | [] => none
  | .read _ _ :: rest => lastWrite addr rest
  | .write a v :: rest => if a = addr then some v else lastWrite addr rest

/-- What a plain memory cell holds after a history that began with the memory `m0`: "the value of the most recent write to that address
in this total order, or the cell's initial content" (20_memory.md R50). -/
def cellAfter (m0 : Memory) (history : List BusEvent) (addr : Word) : Byte :=
  (lastWrite addr history).getD (m0.read addr.toNat)

/-- Every recorded read of plain memory returned what the cell held when it was issued, and every other read what the collaborator
answered. -/
def readsAgree (cfg : Config) (m0 : Memory) : List BusEvent → Prop
  | [] => True
  | .write _ _ :: rest => readsAgree cfg m0 rest
  | .read a v :: rest =>
    v = (if isExternal cfg a then Config.collaboratorRead rest a else cellAfter m0 rest a) ∧ readsAgree cfg m0 rest

/-- The state has come from a launch with memory `m0` and an empty history by transactions of the trivial sequential kind
(20_memory.md R50). -/
structure Coherent (m0 : Memory) (s : State) : Prop where
  /-- the memory is in canonical form -/
  canonical : s.mem.wf = true
  /-- a plain cell holds the most recent write to it, or its initial content -/
  cells : ∀ addr : Word, isExternal s.config addr = false → s.mem.read addr.toNat = cellAfter m0 s.bus addr
  /-- every read that was recorded returned what it had to -/
  reads : readsAgree s.config m0 s.bus

end Sys2Proof.Machine
end

