-- ==== Sys2Proof/Certificates/Slice0/Obligations.lean ====
section
/-! DEFINITION. The statements for the provers, and the few helpers they are written with (namespace `Claims`). A statement of a result says that
`exec` ANSWERS a next state and writes that state out as the old one with the fields the rule names replaced: it is a statement of the
result, of completion and of the frame at once, for every state. Results and flags are written with the arithmetic of the rules or with
bit-vector operations of Lean, not with the model's primitives. An instruction's immediate is an argument of its constructor: the fetch
that reads it is stated by `StepRunsDecodedInstruction` and `StepRunsEncodedInstruction`. -/

namespace Sys2Proof.Claims

open Sys2Proof.Machine

/-! ## Operands -/

/-- The operand of an accumulator instruction: a register, the byte at HL, or the immediate byte. -/
inductive Source where
  | reg (r : Reg8)
  | hlInd
  | imm (n : Byte)

/-- The row of the opcode table for an operand. -/
def Source.row (x : Source) (reg : Reg8 → Instr) (hl : Instr) (imm : Byte → Instr) : Instr :=
  match x with
  | .reg r => reg r
  | .hlInd => hl
  | .imm n => imm n

/-- The operand's value. -/
def Source.value (x : Source) (s : State) : Byte :=
  match x with
  | .reg r => s.getReg r
  | .hlInd => busValue (mkWord s.h s.l) s
  | .imm n => n

/-- The state after the operand is read: one bus read for the byte at HL, nothing for the others. -/
def Source.afterRead (x : Source) (s : State) : State :=
  match x with
  | .reg _ => s
  | .hlInd => (busRead (mkWord s.h s.l) s).2
  | .imm _ => s

/-- The length of the instruction with this operand. -/
def Source.length : Source → Word
  | .reg _ => 1#16
  | .hlInd => 1#16
  | .imm _ => 2#16

/-- The row of the opcode table for an operand that is a register or the byte at HL. -/
def rowAt (loc : Loc8) (reg : Reg8 → Instr) (hl : Instr) : Instr :=
  match loc with
  | .reg r => reg r
  | .hlInd => hl

/-- The value of such an operand. -/
def valueAt (loc : Loc8) (s : State) : Byte :=
  match loc with
  | .reg r => s.getReg r
  | .hlInd => busValue (mkWord s.h s.l) s

/-- The state after such an operand is read and replaced: for the byte at HL one bus read, then one bus write of the same address. -/
def replacedAt (loc : Loc8) (v : Byte) (s : State) : State :=
  match loc with
  | .reg r => s.setReg r v
  | .hlInd => busWrite (mkWord s.h s.l) v (busRead (mkWord s.h s.l) s).2

/-! ## Arithmetic of the rules -/

/-- `(a + v + cin) mod 256`. -/
def sum (a v : Byte) (cin : Bool) : Byte := BitVec.ofNat 8 ((a.toNat + v.toNat + cin.toNat) % 256)

/-- The flags of an 8-bit addition. -/
def sumFlags (a v : Byte) (cin : Bool) : Flags :=
  { z := decide ((a.toNat + v.toNat + cin.toNat) % 256 = 0)
    n := false
    h := decide (a.toNat % 16 + v.toNat % 16 + cin.toNat > 15)
    c := decide (a.toNat + v.toNat + cin.toNat > 255) }

/-- `(a - v - cin) mod 256`. -/
def difference (a v : Byte) (cin : Bool) : Byte := a - v - BitVec.ofNat 8 cin.toNat

/-- The flags of an 8-bit subtraction. -/
def differenceFlags (a v : Byte) (cin : Bool) : Flags :=
  { z := decide (difference a v cin = 0#8)
    n := true
    h := decide (a.toNat % 16 < v.toNat % 16 + cin.toNat)
    c := decide (a.toNat < v.toNat + cin.toNat) }

/-- The flags "zero from the result, subtract and half-carry cleared" with a carry. -/
def zeroCarry (v : Byte) (carry : Bool) : Flags := { z := decide (v = 0#8), n := false, h := false, c := carry }

/-- The flags of a 16-bit addition: Z keeps its value. -/
def wordSumFlags (f : Flags) (a b : Word) : Flags :=
  { z := f.z
    n := false
    h := decide (a.toNat % 4096 + b.toNat % 4096 > 4095)
    c := decide (a.toNat + b.toNat > 65535) }

/-- Two decimal digits as packed BCD. -/
def bcd (k : Nat) : Byte := BitVec.ofNat 8 (16 * (k / 10) + k % 10)

/-! ## Memory, stack, reads of instruction bytes -/

/-- An address of plain RAM. -/
abbrev plain (s : State) (addr : Word) : Prop := isExternal s.config addr = false

/-- The state after a load of `r` from an address. -/
def loaded (r : Reg8) (addr len : Word) (s : State) : State :=
  { (busRead addr s).2.setReg r (busValue addr s) with pc := s.pc + len, signal := .none }

/-- The state after a store to an address. -/
def stored (addr : Word) (v : Byte) (len : Word) (s : State) : State :=
  { busWrite addr v s with pc := s.pc + len, signal := .none }

/-- The state after a push: the high byte at `sp - 1` first, then the low byte at `sp - 2`, and `sp` down by two. -/
def pushed (w : Word) (s : State) : State :=
  { busWrite (s.sp - 2#16) (loByte w) (busWrite (s.sp - 1#16) (hiByte w) s) with sp := s.sp - 2#16 }

/-- The word a pop reads: the low byte at `sp` first, then the high byte at `sp + 1`. -/
def stackTop (s : State) : Word :=
  mkWord (busValue (s.sp + 1#16) (busRead s.sp s).2) (busValue s.sp s)

/-- The state after a pop: two bus reads and `sp` up by two. -/
def popped (s : State) : State :=
  { (busRead (s.sp + 1#16) (busRead s.sp s).2).2 with sp := s.sp + 2#16 }

/-- The state with another `pc` and signal. -/
def goes (target : Word) (signal : Signal) (s : State) : State := { s with pc := target, signal := signal }

/-- Read bytes from an address upward, one bus read each. -/
def readBytes : Nat → Word → State → List Byte × State
  | 0, _, s => ([], s)
  | k + 1, addr, s =>
    (busValue addr s :: (readBytes k (addr + 1#16) (busRead addr s).2).1, (readBytes k (addr + 1#16) (busRead addr s).2).2)

/-- The eleven bytes that are no instruction (48_system.md R246). -/
def illegalBytes : List Byte :=
  [0xD3#8, 0xDB#8, 0xDD#8, 0xE3#8, 0xE4#8, 0xEB#8, 0xEC#8, 0xED#8, 0xF4#8, 0xFC#8, 0xFD#8]

/-- The state of the core itself (10_state.md section 1): the seven general registers, F, `sp` and `pc` agree. -/
def sameCore (s t : State) : Prop :=
  (∀ r, s.getReg r = t.getReg r) ∧ s.f = t.f ∧ s.sp = t.sp ∧ s.pc = t.pc

/-! ## Tables for the whole instruction set -/

/-- The row whose effect an instruction has: its own, or, for the prefix row, the prefixed table's for the byte at `pc + 1`. -/
def rowRun (i : Instr) (s : State) : Instr :=
  if i = .prefixCb then prefixedTable (busValue (s.pc + 1#16) s) else i

/-- Which instructions write `sp` (10_state.md R29), `INC SP` and the others on `rr` only with SP as operand. -/
def writesSp : Instr → Bool
  | .ldRRNn p _ | .incRR p | .decRR p => decide (p = .sp)
  | .ldSpHl | .addSpE _ => true
  | .pushPair _ | .pushAf | .popPair _ | .popAf => true
  | .callNn _ | .callCcNn _ _ | .ret | .retCc _ | .reti | .rst _ => true
  | .addAR _ | .addAHl | .addAN _ | .adcAR _ | .adcAHl | .adcAN _ | .subR _ | .subHl | .subN _ | .sbcAR _
  | .sbcAHl | .sbcAN _ | .andR _ | .andHl | .andN _ | .xorR _ | .xorHl | .xorN _ | .orR _ | .orHl | .orN _
  | .cpR _ | .cpHl | .cpN _ | .incR _ | .incHl | .decR _ | .decHl | .addHlRR _ | .ldHlSpE _ | .rlca | .rrca
  | .rla | .rra | .rlcR _ | .rlcHl | .rrcR _ | .rrcHl | .rlR _ | .rlHl | .rrR _ | .rrHl | .slaR _ | .slaHl
  | .sraR _ | .sraHl | .swapR _ | .swapHl | .srlR _ | .srlHl | .bitR _ _ | .bitHl _ | .resR _ _ | .resHl _
  | .setR _ _ | .setHl _ | .daa | .cpl | .scf | .ccf | .ldReg _ _ | .ldRegN _ _ | .ldRegHl _ | .ldHlReg _
  | .ldHlN _ | .ldABc | .ldADe | .ldBcA | .ldDeA | .ldANn _ | .ldNnA _ | .ldhAN _ | .ldhNA _ | .ldAC | .ldCA
  | .ldHlIncA | .ldAHlInc | .ldHlDecA | .ldAHlDec | .ldNnSp _ | .jpNn _ | .jpCcNn _ _ | .jpHl | .jrE _
  | .jrCcE _ _ | .nop | .halt | .stop | .di | .ei | .prefixCb | .illegalD3 | .illegalDB | .illegalDD
  | .illegalE3 | .illegalE4 | .illegalEB | .illegalEC | .illegalED | .illegalF4 | .illegalFC | .illegalFD => false

/-- The byte registers of a pair or none for SP. -/
def halves : RR → List Reg8
  | .bc => [.b, .c]
  | .de => [.d, .e]
  | .hl => [.h, .l]
  | .sp => []

/-- The byte registers of a pair. -/
def pairHalves : Pair → List Reg8
  | .bc => [.b, .c]
  | .de => [.d, .e]
  | .hl => [.h, .l]

/-- Which general registers a row may write, by the rules of 41 to 48. -/
def registersWritten : Instr → List Reg8
  | .addAR _ | .addAHl | .addAN _ | .adcAR _ | .adcAHl | .adcAN _ => [.a]
  | .subR _ | .subHl | .subN _ | .sbcAR _ | .sbcAHl | .sbcAN _ => [.a]
  | .andR _ | .andHl | .andN _ | .xorR _ | .xorHl | .xorN _ | .orR _ | .orHl | .orN _ => [.a]
  | .incR r | .decR r => [r]
  | .incRR p | .decRR p | .ldRRNn p _ => halves p
  | .addHlRR _ | .ldHlSpE _ => [.h, .l]
  | .rlca | .rrca | .rla | .rra | .daa | .cpl => [.a]
  | .rlcR r | .rrcR r | .rlR r | .rrR r | .slaR r | .sraR r | .swapR r | .srlR r => [r]
  | .resR _ r | .setR _ r => [r]
  | .ldReg r _ | .ldRegN r _ | .ldRegHl r => [r]
  | .ldABc | .ldADe | .ldANn _ | .ldhAN _ | .ldAC => [.a]
  | .ldHlIncA | .ldHlDecA => [.h, .l]
  | .ldAHlInc | .ldAHlDec => [.a, .h, .l]
  | .popPair q => pairHalves q
  | .popAf => [.a]
  | .cpR _ | .cpHl | .cpN _ | .incHl | .decHl | .addSpE _ | .rlcHl | .rrcHl | .rlHl | .rrHl | .slaHl | .sraHl
  | .swapHl | .srlHl | .bitR _ _ | .bitHl _ | .resHl _ | .setHl _ | .scf | .ccf | .ldHlReg _ | .ldHlN _
  | .ldBcA | .ldDeA | .ldNnA _ | .ldhNA _ | .ldCA | .ldNnSp _ | .ldSpHl | .pushPair _ | .pushAf | .jpNn _
  | .jpCcNn _ _ | .jpHl | .jrE _ | .jrCcE _ _ | .callNn _ | .callCcNn _ _ | .ret | .retCc _ | .reti | .rst _
  | .nop | .halt | .stop | .di | .ei | .prefixCb | .illegalD3 | .illegalDB | .illegalDD | .illegalE3
  | .illegalE4 | .illegalEB | .illegalEC | .illegalED | .illegalF4 | .illegalFC | .illegalFD => []

/-- The addresses a row stores a byte to: code 6 forms at HL, the loads at their operand, pushes and calls below `sp`. -/
def storesTo (i : Instr) (s : State) : List Word :=
  match i with
  | .incHl | .decHl | .ldHlReg _ | .ldHlN _ | .ldHlIncA | .ldHlDecA => [s.hl]
  | .rlcHl | .rrcHl | .rlHl | .rrHl | .slaHl | .sraHl | .swapHl | .srlHl => [s.hl]
  | .resHl _ | .setHl _ => [s.hl]
  | .ldBcA => [s.getPair .bc]
  | .ldDeA => [s.getPair .de]
  | .ldNnA nn => [nn]
  | .ldhNA n => [ioAddress n]
  | .ldCA => [ioAddress s.c]
  | .ldNnSp nn => [nn, nn + 1#16]
  | .pushPair _ | .pushAf | .callNn _ | .rst _ => [s.sp - 1#16, s.sp - 2#16]
  | .callCcNn cc _ => if condHolds s.f cc then [s.sp - 1#16, s.sp - 2#16] else []
  | .addAR _ | .addAHl | .addAN _ | .adcAR _ | .adcAHl | .adcAN _ | .subR _ | .subHl | .subN _ | .sbcAR _
  | .sbcAHl | .sbcAN _ | .andR _ | .andHl | .andN _ | .xorR _ | .xorHl | .xorN _ | .orR _ | .orHl | .orN _
  | .cpR _ | .cpHl | .cpN _ | .incR _ | .decR _ | .incRR _ | .decRR _ | .addHlRR _ | .addSpE _ | .ldHlSpE _
  | .rlca | .rrca | .rla | .rra | .rlcR _ | .rrcR _ | .rlR _ | .rrR _ | .slaR _ | .sraR _ | .swapR _ | .srlR _
  | .bitR _ _ | .bitHl _ | .resR _ _ | .setR _ _ | .daa | .cpl | .scf | .ccf | .ldReg _ _ | .ldRegN _ _
  | .ldRegHl _ | .ldABc | .ldADe | .ldANn _ | .ldhAN _ | .ldAC | .ldAHlInc | .ldAHlDec | .ldRRNn _ _ | .ldSpHl
  | .popPair _ | .popAf | .jpNn _ | .jpCcNn _ _ | .jpHl | .jrE _ | .jrCcE _ _ | .ret | .retCc _ | .reti | .nop
  | .halt | .stop | .di | .ei | .prefixCb | .illegalD3 | .illegalDB | .illegalDD | .illegalE3 | .illegalE4
  | .illegalEB | .illegalEC | .illegalED | .illegalF4 | .illegalFC | .illegalFD => []

/-- What a row does to one flag (10_state.md section 7): `-`, `0`, `1`, `*`. -/
inductive FlagEffect where
  | unchanged
  | cleared
  | isSet
  | computed

/-- What the four flags are after a row, as far as the table says. -/
structure FlagRow where
  z : FlagEffect
  n : FlagEffect
  h : FlagEffect
  c : FlagEffect

/-- The table of 10_state.md section 7, row by row. The prefix row has no flag effect of its own (48_system.md R245). -/
def flagRow : Instr → FlagRow
  | .addAR _ | .addAHl | .addAN _ | .adcAR _ | .adcAHl | .adcAN _ => ⟨.computed, .cleared, .computed, .computed⟩
  | .subR _ | .subHl | .subN _ | .sbcAR _ | .sbcAHl | .sbcAN _ => ⟨.computed, .isSet, .computed, .computed⟩
  | .cpR _ | .cpHl | .cpN _ => ⟨.computed, .isSet, .computed, .computed⟩
  | .andR _ | .andHl | .andN _ | .xorR _ | .xorHl | .xorN _ => ⟨.computed, .cleared, .cleared, .cleared⟩
  | .orR _ | .orHl | .orN _ => ⟨.computed, .cleared, .cleared, .cleared⟩
  | .incR _ | .incHl => ⟨.computed, .cleared, .computed, .unchanged⟩
  | .decR _ | .decHl => ⟨.computed, .isSet, .computed, .unchanged⟩
  | .incRR _ => ⟨.unchanged, .cleared, .computed, .unchanged⟩
  | .decRR _ => ⟨.unchanged, .isSet, .computed, .unchanged⟩
  | .addHlRR _ | .addSpE _ | .ldHlSpE _ => ⟨.unchanged, .cleared, .computed, .computed⟩
  | .rlca | .rrca | .rla | .rra => ⟨.unchanged, .unchanged, .unchanged, .computed⟩
  | .rlcR _ | .rlcHl | .rrcR _ | .rrcHl | .rlR _ | .rlHl | .rrR _ | .rrHl => ⟨.computed, .cleared, .cleared, .computed⟩
  | .slaR _ | .slaHl | .sraR _ | .sraHl | .srlR _ | .srlHl => ⟨.computed, .cleared, .cleared, .computed⟩
  | .swapR _ | .swapHl => ⟨.computed, .cleared, .cleared, .cleared⟩
  | .bitR _ _ | .bitHl _ => ⟨.computed, .cleared, .isSet, .unchanged⟩
  | .daa => ⟨.computed, .unchanged, .cleared, .computed⟩
  | .cpl => ⟨.unchanged, .isSet, .isSet, .unchanged⟩
  | .scf => ⟨.unchanged, .cleared, .cleared, .isSet⟩
  | .ccf => ⟨.unchanged, .cleared, .cleared, .computed⟩
  | .popAf => ⟨.computed, .computed, .computed, .computed⟩
  | .resR _ _ | .resHl _ | .setR _ _ | .setHl _ | .ldReg _ _ | .ldRegN _ _ | .ldRegHl _ | .ldHlReg _ | .ldHlN _
  | .ldABc | .ldADe | .ldBcA | .ldDeA | .ldANn _ | .ldNnA _ | .ldhAN _ | .ldhNA _ | .ldAC | .ldCA | .ldHlIncA
  | .ldAHlInc | .ldHlDecA | .ldAHlDec | .ldRRNn _ _ | .ldNnSp _ | .ldSpHl | .pushPair _ | .pushAf | .popPair _
  | .jpNn _ | .jpCcNn _ _ | .jpHl | .jrE _ | .jrCcE _ _ | .callNn _ | .callCcNn _ _ | .ret | .retCc _ | .reti
  | .rst _ | .nop | .halt | .stop | .di | .ei | .prefixCb | .illegalD3 | .illegalDB | .illegalDD | .illegalE3 | .illegalE4
  | .illegalEB | .illegalEC | .illegalED | .illegalF4 | .illegalFC | .illegalFD => ⟨.unchanged, .unchanged, .unchanged, .unchanged⟩

/-- An effect on one flag, of its value before and after. -/
def FlagEffect.holds (e : FlagEffect) (before after : Bool) : Prop :=
  match e with
  | .unchanged => after = before
  | .cleared => after = false
  | .isSet => after = true
  | .computed => True

/-- The signal of each row (60_exceptions.md R259). -/
def signalOf : Instr → Signal
  | .ei | .reti => .intEnable
  | .di => .intDisable
  | .halt => .halt
  | .stop => .stop
  | .addAR _ | .addAHl | .addAN _ | .adcAR _ | .adcAHl | .adcAN _ | .subR _ | .subHl | .subN _ | .sbcAR _
  | .sbcAHl | .sbcAN _ | .andR _ | .andHl | .andN _ | .xorR _ | .xorHl | .xorN _ | .orR _ | .orHl | .orN _
  | .cpR _ | .cpHl | .cpN _ | .incR _ | .incHl | .decR _ | .decHl | .incRR _ | .decRR _ | .addHlRR _
  | .addSpE _ | .ldHlSpE _ | .rlca | .rrca | .rla | .rra | .rlcR _ | .rlcHl | .rrcR _ | .rrcHl | .rlR _ | .rlHl
  | .rrR _ | .rrHl | .slaR _ | .slaHl | .sraR _ | .sraHl | .swapR _ | .swapHl | .srlR _ | .srlHl | .bitR _ _
  | .bitHl _ | .resR _ _ | .resHl _ | .setR _ _ | .setHl _ | .daa | .cpl | .scf | .ccf | .ldReg _ _
  | .ldRegN _ _ | .ldRegHl _ | .ldHlReg _ | .ldHlN _ | .ldABc | .ldADe | .ldBcA | .ldDeA | .ldANn _ | .ldNnA _
  | .ldhAN _ | .ldhNA _ | .ldAC | .ldCA | .ldHlIncA | .ldAHlInc | .ldHlDecA | .ldAHlDec | .ldRRNn _ _
  | .ldNnSp _ | .ldSpHl | .pushPair _ | .pushAf | .popPair _ | .popAf | .jpNn _ | .jpCcNn _ _ | .jpHl | .jrE _
  | .jrCcE _ _ | .callNn _ | .callCcNn _ _ | .ret | .retCc _ | .rst _ | .nop | .prefixCb | .illegalD3
  | .illegalDB | .illegalDD | .illegalE3 | .illegalE4 | .illegalEB | .illegalEC | .illegalED | .illegalF4
  | .illegalFC | .illegalFD => .none

/-- Where `pc` goes: the target of a transfer that is taken, else past the instruction (30_encoding.md R65). -/
def nextPc (i : Instr) (s : State) : Word :=
  match i with
  | .jpNn nn | .callNn nn => nn
  | .jpCcNn cc nn | .callCcNn cc nn => if condHolds s.f cc then nn else s.pc + 3#16
  | .jpHl => mkWord s.h s.l
  | .jrE e => s.pc + 2#16 + e.signExtend 16
  | .jrCcE cc e => if condHolds s.f cc then s.pc + 2#16 + e.signExtend 16 else s.pc + 2#16
  | .ret | .reti => stackTop s
  | .retCc cc => if condHolds s.f cc then stackTop s else s.pc + 1#16
  | .rst t => BitVec.ofNat 16 (8 * t.toNat)
  | .stop => s.pc + s.config.stopLen.toWord
  | .prefixCb => s.pc + 2#16
  | .addAR _ | .addAHl | .addAN _ | .adcAR _ | .adcAHl | .adcAN _ | .subR _ | .subHl | .subN _ | .sbcAR _
  | .sbcAHl | .sbcAN _ | .andR _ | .andHl | .andN _ | .xorR _ | .xorHl | .xorN _ | .orR _ | .orHl | .orN _
  | .cpR _ | .cpHl | .cpN _ | .incR _ | .incHl | .decR _ | .decHl | .incRR _ | .decRR _ | .addHlRR _
  | .addSpE _ | .ldHlSpE _ | .rlca | .rrca | .rla | .rra | .rlcR _ | .rlcHl | .rrcR _ | .rrcHl | .rlR _ | .rlHl
  | .rrR _ | .rrHl | .slaR _ | .slaHl | .sraR _ | .sraHl | .swapR _ | .swapHl | .srlR _ | .srlHl | .bitR _ _
  | .bitHl _ | .resR _ _ | .resHl _ | .setR _ _ | .setHl _ | .daa | .cpl | .scf | .ccf | .ldReg _ _
  | .ldRegN _ _ | .ldRegHl _ | .ldHlReg _ | .ldHlN _ | .ldABc | .ldADe | .ldBcA | .ldDeA | .ldANn _ | .ldNnA _
  | .ldhAN _ | .ldhNA _ | .ldAC | .ldCA | .ldHlIncA | .ldAHlInc | .ldHlDecA | .ldAHlDec | .ldRRNn _ _
  | .ldNnSp _ | .ldSpHl | .pushPair _ | .pushAf | .popPair _ | .popAf | .nop | .halt | .di | .ei | .illegalD3
  | .illegalDB | .illegalDD | .illegalE3 | .illegalE4 | .illegalEB | .illegalEC | .illegalED | .illegalF4
  | .illegalFC | .illegalFD => s.pc + BitVec.ofNat 16 (encode i).length

/-! ## Runs of bus events -/

/-- An event is a read. -/
def isRead : BusEvent → Bool
  | .read _ _ => true
  | .write _ _ => false

/-- What a state would answer to a read after further reads, the newest first. -/
def answerAfter (s : State) (reads : List BusEvent) (addr : Word) : Byte :=
  busValue addr { s with bus := reads ++ s.bus }

/-- A state that has faulted a number of times. -/
def faultedTimes : Nat → State → State
  | 0, s => s
  | k + 1, s => faultedTimes k s.afterFault

end Sys2Proof.Claims

section

open Sys2Proof Sys2Proof.Machine Sys2Proof.Claims

/-! # Results, completion and frame, family by family -/

/-- ADD and ADC, every operand form: A becomes the sum mod 256, all four flags as 40_alu_primitives.md R80 gives them, the carry flag
being the carry-in of ADC; nothing else changes but `pc`, the signal and, for (HL), one recorded bus read. -/
def Obligations.AddAndAdcWriteSumAndFlags : Prop :=
  ∀ (x : Source) (s : State),
    exec (x.row .addAR .addAHl .addAN) s =
        .next { x.afterRead s with
          a := sum s.a (x.value s) false, f := sumFlags s.a (x.value s) false, pc := s.pc + x.length, signal := .none } ∧
      exec (x.row .adcAR .adcAHl .adcAN) s =
        .next { x.afterRead s with
          a := sum s.a (x.value s) s.f.c, f := sumFlags s.a (x.value s) s.f.c, pc := s.pc + x.length, signal := .none }

/-- SUB, SBC and CP, every operand form: 40_alu_primitives.md R81. SUB and SBC write the difference mod 256 to A, CP writes no register;
all four flags are those of the subtraction. -/
def Obligations.SubSbcAndCpWriteDifferenceAndFlags : Prop :=
  ∀ (x : Source) (s : State),
    exec (x.row .subR .subHl .subN) s =
        .next { x.afterRead s with
          a := difference s.a (x.value s) false, f := differenceFlags s.a (x.value s) false
          pc := s.pc + x.length, signal := .none } ∧
      exec (x.row .sbcAR .sbcAHl .sbcAN) s =
        .next { x.afterRead s with
          a := difference s.a (x.value s) s.f.c, f := differenceFlags s.a (x.value s) s.f.c
          pc := s.pc + x.length, signal := .none } ∧
      exec (x.row .cpR .cpHl .cpN) s =
        .next { x.afterRead s with
          f := differenceFlags s.a (x.value s) false, pc := s.pc + x.length, signal := .none }

/-- AND, XOR and OR, every operand form: 40_alu_primitives.md R82, with H false for AND too. -/
def Obligations.AndXorOrWriteBitwiseResult : Prop :=
  ∀ (x : Source) (s : State),
    exec (x.row .andR .andHl .andN) s =
        .next { x.afterRead s with
          a := s.a &&& x.value s, f := zeroCarry (s.a &&& x.value s) false, pc := s.pc + x.length, signal := .none } ∧
      exec (x.row .xorR .xorHl .xorN) s =
        .next { x.afterRead s with
          a := s.a ^^^ x.value s, f := zeroCarry (s.a ^^^ x.value s) false, pc := s.pc + x.length, signal := .none } ∧
      exec (x.row .orR .orHl .orN) s =
        .next { x.afterRead s with
          a := s.a ||| x.value s, f := zeroCarry (s.a ||| x.value s) false, pc := s.pc + x.length, signal := .none }

/-- INC and DEC of a register: 40_alu_primitives.md R83 and R84; the carry flag keeps its value. The forms at HL are in
`ReadModifyWriteAtHlActsAsOnRegister`. -/
def Obligations.IncAndDecByteKeepCarry : Prop :=
  ∀ (r : Reg8) (s : State),
    exec (.incR r) s =
        .next { s.setReg r (s.getReg r + 1#8) with
          f := { z := decide (s.getReg r = 0xFF#8), n := false, h := decide ((s.getReg r).toNat % 16 = 15), c := s.f.c }
          pc := s.pc + 1#16, signal := .none } ∧
      exec (.decR r) s =
        .next { s.setReg r (s.getReg r - 1#8) with
          f := { z := decide (s.getReg r = 0x01#8), n := true, h := decide ((s.getReg r).toNat % 16 = 0), c := s.f.c }
          pc := s.pc + 1#16, signal := .none }

/-- INC and DEC of BC, DE, HL or SP: 40_alu_primitives.md R85 and R86; Z and C keep their values. -/
def Obligations.IncAndDecWordKeepZeroAndCarry : Prop :=
  ∀ (p : RR) (s : State),
    exec (.incRR p) s =
        .next { s.setRR p (s.getRR p + 1#16) with
          f := { z := s.f.z, n := false, h := decide ((s.getRR p).toNat % 4096 = 4095), c := s.f.c }
          pc := s.pc + 1#16, signal := .none } ∧
      exec (.decRR p) s =
        .next { s.setRR p (s.getRR p - 1#16) with
          f := { z := s.f.z, n := true, h := decide ((s.getRR p).toNat % 4096 = 0), c := s.f.c }
          pc := s.pc + 1#16, signal := .none }

/-- ADD HL,rr, ADD SP,e and LD HL,SP+e: the 16-bit sum with the flags of 40_alu_primitives.md R87 on both addends; Z keeps its value, and
LD HL,SP+e leaves SP. That the displacement's carries are those of the 16-bit addition, and LD HL,SP+e itself, are the spec's
decisions D9 and D10 (notes/assumptions/18.md). -/
def Obligations.WordAddsWriteSumAndKeepZero : Prop :=
  (∀ (p : RR) (s : State),
      exec (.addHlRR p) s =
        .next { s.setPair .hl (s.getPair .hl + s.getRR p) with
          f := wordSumFlags s.f (s.getPair .hl) (s.getRR p), pc := s.pc + 1#16, signal := .none }) ∧
    (∀ (e : Byte) (s : State),
      exec (.addSpE e) s =
        .next { s with
          sp := s.sp + e.signExtend 16, f := wordSumFlags s.f s.sp (e.signExtend 16)
          pc := s.pc + 2#16, signal := .none }) ∧
    ∀ (e : Byte) (s : State),
      exec (.ldHlSpE e) s =
        .next { s.setPair .hl (s.sp + e.signExtend 16) with
          f := wordSumFlags s.f s.sp (e.signExtend 16), pc := s.pc + 2#16, signal := .none }

/-- The four rotates (40_alu_primitives.md R88 to R91), in their accumulator form, which writes C only, and in their prefixed form on a
register, which writes Z, clears N and H, and writes C. The forms at HL are in `ReadModifyWriteAtHlActsAsOnRegister`. -/
def Obligations.RotatesWriteResultAndFlags : Prop :=
  (∀ s : State,
      exec .rlca s =
          .next { s with a := s.a.rotateLeft 1, f := { s.f with c := s.a.getLsbD 7 }, pc := s.pc + 1#16, signal := .none } ∧
        exec .rrca s =
          .next { s with a := s.a.rotateRight 1, f := { s.f with c := s.a.getLsbD 0 }, pc := s.pc + 1#16, signal := .none } ∧
        exec .rla s =
          .next { s with
            a := s.a.extractLsb' 0 7 ++ BitVec.ofBool s.f.c, f := { s.f with c := s.a.getLsbD 7 }
            pc := s.pc + 1#16, signal := .none } ∧
        exec .rra s =
          .next { s with
            a := BitVec.ofBool s.f.c ++ s.a.extractLsb' 1 7, f := { s.f with c := s.a.getLsbD 0 }
            pc := s.pc + 1#16, signal := .none }) ∧
    ∀ (r : Reg8) (s : State),
      exec (.rlcR r) s =
          .next { s.setReg r ((s.getReg r).rotateLeft 1) with
            f := zeroCarry ((s.getReg r).rotateLeft 1) ((s.getReg r).getLsbD 7), pc := s.pc + 2#16, signal := .none } ∧
        exec (.rrcR r) s =
          .next { s.setReg r ((s.getReg r).rotateRight 1) with
            f := zeroCarry ((s.getReg r).rotateRight 1) ((s.getReg r).getLsbD 0), pc := s.pc + 2#16, signal := .none } ∧
        exec (.rlR r) s =
          .next { s.setReg r ((s.getReg r).extractLsb' 0 7 ++ BitVec.ofBool s.f.c) with
            f := zeroCarry ((s.getReg r).extractLsb' 0 7 ++ BitVec.ofBool s.f.c) ((s.getReg r).getLsbD 7)
            pc := s.pc + 2#16, signal := .none } ∧
        exec (.rrR r) s =
          .next { s.setReg r (BitVec.ofBool s.f.c ++ (s.getReg r).extractLsb' 1 7) with
            f := zeroCarry (BitVec.ofBool s.f.c ++ (s.getReg r).extractLsb' 1 7) ((s.getReg r).getLsbD 0)
            pc := s.pc + 2#16, signal := .none }

/-- SLA, SRA, SWAP and SRL, on a register: 40_alu_primitives.md R92 to R95. The forms at HL are in
`ReadModifyWriteAtHlActsAsOnRegister`. -/
def Obligations.ShiftsAndSwapWriteResultAndFlags : Prop :=
  ∀ (r : Reg8) (s : State),
    exec (.slaR r) s =
        .next { s.setReg r (s.getReg r + s.getReg r) with
          f := zeroCarry (s.getReg r + s.getReg r) ((s.getReg r).getLsbD 7), pc := s.pc + 2#16, signal := .none } ∧
      exec (.sraR r) s =
        .next { s.setReg r ((s.getReg r).sshiftRight 1) with
          f := zeroCarry ((s.getReg r).sshiftRight 1) ((s.getReg r).getLsbD 0), pc := s.pc + 2#16, signal := .none } ∧
      exec (.swapR r) s =
        .next { s.setReg r ((s.getReg r).rotateLeft 4) with
          f := zeroCarry ((s.getReg r).rotateLeft 4) false, pc := s.pc + 2#16, signal := .none } ∧
      exec (.srlR r) s =
        .next { s.setReg r (BitVec.ofNat 8 ((s.getReg r).toNat / 2)) with
          f := zeroCarry (BitVec.ofNat 8 ((s.getReg r).toNat / 2)) ((s.getReg r).getLsbD 0)
          pc := s.pc + 2#16, signal := .none }

/-- BIT b on a register, 40_alu_primitives.md R96: Z is the complement of the bit, N cleared, H set, C kept, no mutation. The form at HL
is in `ReadModifyWriteAtHlActsAsOnRegister`. -/
def Obligations.BitTestsOneBitAndWritesNoOperand : Prop :=
  ∀ (b : BitVec 3) (r : Reg8) (s : State),
    exec (.bitR b r) s =
      .next { s with
        f := { z := !(s.getReg r).getLsbD b.toNat, n := false, h := true, c := s.f.c }, pc := s.pc + 2#16, signal := .none }

/-- The forms at HL of INC, DEC, the prefixed rotates and shifts, SWAP, RES and SET act on the byte at HL as the register form acts on a
register that holds it, with the same flags, length and signal: one bus read of HL, then one bus write of the result there, and
no register changes; BIT reads only. That it is exactly one read, then one write is the spec's decision D20
(notes/assumptions/19.md). -/
def Obligations.ReadModifyWriteAtHlActsAsOnRegister : Prop :=
  ∀ (b : BitVec 3) (s : State),
    (∀ rows : (Reg8 → Instr) × Instr,
      rows ∈ [(.incR, .incHl), (.decR, .decHl), (.rlcR, .rlcHl), (.rrcR, .rrcHl), (.rlR, .rlHl), (.rrR, .rrHl), (.slaR, .slaHl),
          (.sraR, .sraHl), (.swapR, .swapHl), (.srlR, .srlHl), (.resR b, .resHl b), (.setR b, .setHl b)] →
        ∃ t, exec (rows.1 .b) { s with b := busValue (mkWord s.h s.l) s } = .next t ∧
          exec rows.2 s =
            .next { busWrite (mkWord s.h s.l) t.b (busRead (mkWord s.h s.l) s).2 with f := t.f, pc := t.pc, signal := t.signal }) ∧
      ∃ t, exec (.bitR b .b) { s with b := busValue (mkWord s.h s.l) s } = .next t ∧
        exec (.bitHl b) s = .next { (busRead (mkWord s.h s.l) s).2 with f := t.f, pc := t.pc, signal := t.signal }

/-- RES b and SET b on a register or at HL: 40_alu_primitives.md R97: exactly that bit of the selected operand is cleared or set, and no flag
is affected. That the form at HL is one read, then one write is the spec's decision D20 (notes/assumptions/19.md). -/
def Obligations.ResAndSetChangeExactlyOneBit : Prop :=
  ∀ (b : BitVec 3) (loc : Loc8) (s : State),
    (∃ v : Byte,
        exec (rowAt loc (.resR b) (.resHl b)) s = .next { replacedAt loc v s with pc := s.pc + 2#16, signal := .none } ∧
          ∀ k : Nat, v.getLsbD k = if k = b.toNat then false else (valueAt loc s).getLsbD k) ∧
      ∃ v : Byte,
        exec (rowAt loc (.setR b) (.setHl b)) s = .next { replacedAt loc v s with pc := s.pc + 2#16, signal := .none } ∧
          ∀ k : Nat, v.getLsbD k = if k = b.toNat then true else (valueAt loc s).getLsbD k

/-- DAA: A moves by 6 and by 96 as the flags and the input's digits say, Z from the result, H cleared, C when 96 was applied, N kept. The
algorithm is the spec's decision D11 (notes/assumptions/16.md). -/
def Obligations.DaaAdjustsAccumulator : Prop :=
  ∀ s : State,
    let low := s.f.h || (!s.f.n && decide (s.a.toNat % 16 > 9))
    let high := s.f.c || (!s.f.n && decide (s.a.toNat > 0x99))
    let amount : Byte := BitVec.ofNat 8 (6 * low.toNat + 96 * high.toNat)
    let result : Byte := if s.f.n then s.a - amount else s.a + amount
    exec .daa s =
      .next { s with
        a := result, f := { z := decide (result = 0#8), n := s.f.n, h := false, c := high }, pc := s.pc + 1#16, signal := .none }

/-- DAA after an addition or a subtraction of packed BCD gives the packed BCD of the decimal sum or difference mod 100, with C as the
decimal carry or borrow. It rests on the algorithm of D11 (notes/assumptions/16.md). -/
def Obligations.DaaRenormalizesBcd : Prop :=
  ∀ (x y : Nat) (s : State), x < 100 → y < 100 → s.a = bcd x → s.b = bcd y →
    (∃ t u, exec (.addAR .b) s = .next t ∧ exec .daa t = .next u ∧
        u.a = bcd ((x + y) % 100) ∧ u.f.c = decide (100 ≤ x + y) ∧ u.f.z = decide ((x + y) % 100 = 0)) ∧
      ∃ t u, exec (.subR .b) s = .next t ∧ exec .daa t = .next u ∧
        u.a = bcd ((x + 100 - y) % 100) ∧ u.f.c = decide (x < y) ∧ u.f.z = decide (x = y)

/-- CPL, SCF and CCF: 44_misc_alu.md R181 to R183. -/
def Obligations.CplScfAndCcfWriteTheirFlags : Prop :=
  ∀ s : State,
    exec .cpl s =
        .next { s with a := ~~~s.a, f := { s.f with n := true, h := true }, pc := s.pc + 1#16, signal := .none } ∧
      exec .scf s =
        .next { s with f := { z := s.f.z, n := false, h := false, c := true }, pc := s.pc + 1#16, signal := .none } ∧
      exec .ccf s =
        .next { s with f := { z := s.f.z, n := false, h := false, c := !s.f.c }, pc := s.pc + 1#16, signal := .none }

/-- LD r,r' and LD r,n: 45_loads8.md R190 and R191: the register takes the value, no flag is written (D28, notes/assumptions/25.md). -/
def Obligations.RegisterLoadsCopyTheValue : Prop :=
  ∀ (r : Reg8) (s : State),
    (∀ r' : Reg8, exec (.ldReg r r') s = .next { s.setReg r (s.getReg r') with pc := s.pc + 1#16, signal := .none }) ∧
      ∀ n : Byte, exec (.ldRegN r n) s = .next { s.setReg r n with pc := s.pc + 2#16, signal := .none }

/-- The loads from memory, 45_loads8.md R192, R195, R196, R199, R201, R203: one bus read at the operand's address, as it was before the
register is written; no flag. The I/O page base 0xFF00 and the length of LD A,(C) are the spec's decisions D15 and D26
(notes/assumptions/24.md). -/
def Obligations.MemoryLoadsReadOneByte : Prop :=
  ∀ s : State,
    (∀ r : Reg8, exec (.ldRegHl r) s = .next (loaded r (mkWord s.h s.l) 1#16 s)) ∧
      exec .ldABc s = .next (loaded .a (mkWord s.b s.c) 1#16 s) ∧
      exec .ldADe s = .next (loaded .a (mkWord s.d s.e) 1#16 s) ∧
      (∀ nn : Word, exec (.ldANn nn) s = .next (loaded .a nn 3#16 s)) ∧
      (∀ n : Byte, exec (.ldhAN n) s = .next (loaded .a (mkWord 0xFF#8 n) 2#16 s)) ∧
      exec .ldAC s = .next (loaded .a (mkWord 0xFF#8 s.c) 1#16 s)

/-- The stores, 45_loads8.md R193, R194, R197, R198, R200, R202, R204: one bus write at the operand's address; no register and no flag.
What a bus write leaves in memory is `BusWriteChangesOneByte`. Base and length as in D15 and D26 (notes/assumptions/24.md). -/
def Obligations.MemoryStoresWriteOneByte : Prop :=
  ∀ s : State,
    (∀ r : Reg8, exec (.ldHlReg r) s = .next (stored (mkWord s.h s.l) (s.getReg r) 1#16 s)) ∧
      (∀ n : Byte, exec (.ldHlN n) s = .next (stored (mkWord s.h s.l) n 2#16 s)) ∧
      exec .ldBcA s = .next (stored (mkWord s.b s.c) s.a 1#16 s) ∧
      exec .ldDeA s = .next (stored (mkWord s.d s.e) s.a 1#16 s) ∧
      (∀ nn : Word, exec (.ldNnA nn) s = .next (stored nn s.a 3#16 s)) ∧
      (∀ n : Byte, exec (.ldhNA n) s = .next (stored (mkWord 0xFF#8 n) s.a 2#16 s)) ∧
      exec .ldCA s = .next (stored (mkWord 0xFF#8 s.c) s.a 1#16 s)

/-- The loads and stores with HL+ and HL-, 45_loads8.md R205 to R208: the access uses the old HL, then HL moves by one mod 65536; no flag
(D27, notes/assumptions/25.md). -/
def Obligations.PostStepLoadsMoveHlByOne : Prop :=
  ∀ s : State,
    exec .ldHlIncA s = .next ((stored (mkWord s.h s.l) s.a 1#16 s).setPair .hl (mkWord s.h s.l + 1#16)) ∧
      exec .ldHlDecA s = .next ((stored (mkWord s.h s.l) s.a 1#16 s).setPair .hl (mkWord s.h s.l - 1#16)) ∧
      exec .ldAHlInc s = .next ((loaded .a (mkWord s.h s.l) 1#16 s).setPair .hl (mkWord s.h s.l + 1#16)) ∧
      exec .ldAHlDec s = .next ((loaded .a (mkWord s.h s.l) 1#16 s).setPair .hl (mkWord s.h s.l - 1#16))

/-- LD rr,nn, LD (nn),SP and LD SP,HL, 46_loads16_stack.md R210 to R212; LD (nn),SP writes the low byte at `nn` first, then the high byte at
`nn + 1` (D12, notes/assumptions/19.md). -/
def Obligations.WordLoadsMoveTheWord : Prop :=
  ∀ s : State,
    (∀ (p : RR) (nn : Word), exec (.ldRRNn p nn) s = .next { s.setRR p nn with pc := s.pc + 3#16, signal := .none }) ∧
      (∀ nn : Word,
        exec (.ldNnSp nn) s =
          .next { busWrite (nn + 1#16) (hiByte s.sp) (busWrite nn (loByte s.sp) s) with pc := s.pc + 3#16, signal := .none }) ∧
      exec .ldSpHl s = .next { s with sp := mkWord s.h s.l, pc := s.pc + 1#16, signal := .none }

/-- The stack primitives as PUSH and POP of BC, DE and HL use them, 40_alu_primitives.md R102: a push writes the high byte at `sp - 1`, then
the low byte at `sp - 2`; a pop reads the low byte at `sp`, then the high byte at `sp + 1`; `sp` moves by two mod 65536 for
every value of it; and a pop after a push gives the pushed word wherever the two bytes are plain memory. -/
def Obligations.PushAndPopMoveWordsThroughStack : Prop :=
  ∀ (q : Pair) (s : State),
    exec (.pushPair q) s = .next (goes (s.pc + 1#16) .none (pushed (s.getPair q) s)) ∧
      exec (.popPair q) s = .next (goes (s.pc + 1#16) .none ((popped s).setPair q (stackTop s))) ∧
      (s.mem.wf = true → plain s (s.sp - 1#16) → plain s (s.sp - 2#16) →
        ∀ q' : Pair, ∃ t u, exec (.pushPair q) s = .next t ∧ exec (.popPair q') t = .next u ∧
          u.getPair q' = s.getPair q ∧ u.sp = s.sp)

/-- PUSH AF and POP AF, 46_loads16_stack.md R214 and R216: A is the high byte (D19, notes/assumptions/22.md), the flags byte the low byte with
bits 3 to 0 zero when pushed and ignored when popped; POP AF then PUSH AF stores the popped low byte with its low nibble cleared. -/
def Obligations.PushAndPopAfRouteTheFlagsByte : Prop :=
  ∀ s : State,
    exec .pushAf s =
        .next (goes (s.pc + 1#16) .none
          (pushed (mkWord s.a (BitVec.ofBool s.f.z ++ BitVec.ofBool s.f.n ++ BitVec.ofBool s.f.h ++ BitVec.ofBool s.f.c ++ 0#4)) s)) ∧
      exec .popAf s =
        .next (goes (s.pc + 1#16) .none { popped s with
          a := hiByte (stackTop s)
          f := { z := (loByte (stackTop s)).getLsbD 7, n := (loByte (stackTop s)).getLsbD 6
                 h := (loByte (stackTop s)).getLsbD 5, c := (loByte (stackTop s)).getLsbD 4 } }) ∧
      ∀ t, exec .popAf s = .next t → ∃ u, exec .pushAf t = .next u ∧
        u.bus = .write s.sp (loByte (stackTop s) &&& 0xF0#8) :: .write (s.sp + 1#16) (hiByte (stackTop s)) :: t.bus

/-- JP and JR, 47_control_flow.md R220 to R224: `pc` takes the target if the condition holds, else the address past the instruction; nothing
else changes. JP HL is the published table's (D25, notes/assumptions/24.md). -/
def Obligations.JumpsWriteOnlyPc : Prop :=
  ∀ s : State,
    (∀ nn : Word, exec (.jpNn nn) s = .next (goes nn .none s)) ∧
      (∀ (cc : Cond) (nn : Word), exec (.jpCcNn cc nn) s = .next (goes (if condHolds s.f cc then nn else s.pc + 3#16) .none s)) ∧
      exec .jpHl s = .next (goes (mkWord s.h s.l) .none s) ∧
      (∀ e : Byte, exec (.jrE e) s = .next (goes (s.pc + 2#16 + e.signExtend 16) .none s)) ∧
      ∀ (cc : Cond) (e : Byte),
        exec (.jrCcE cc e) s = .next (goes (if condHolds s.f cc then s.pc + 2#16 + e.signExtend 16 else s.pc + 2#16) .none s)

/-- CALL, RST, RET and RETI, 47_control_flow.md R225 to R230: the link is the address past the instruction; an untaken CALL pushes nothing and
an untaken RET reads nothing (D8, D24, notes/assumptions/23.md); RST goes to `8 * t` (D16, notes/assumptions/24.md); RETI is RET
with the signal `int_enable` (notes/assumptions/14.md). -/
def Obligations.CallsAndReturnsUseTheStack : Prop :=
  ∀ s : State,
    (∀ nn : Word, exec (.callNn nn) s = .next (goes nn .none (pushed (s.pc + 3#16) s))) ∧
      (∀ (cc : Cond) (nn : Word),
        exec (.callCcNn cc nn) s =
          .next (if condHolds s.f cc then goes nn .none (pushed (s.pc + 3#16) s) else goes (s.pc + 3#16) .none s)) ∧
      (∀ t : BitVec 3, exec (.rst t) s = .next (goes (BitVec.ofNat 16 (8 * t.toNat)) .none (pushed (s.pc + 1#16) s))) ∧
      exec .ret s = .next (goes (stackTop s) .none (popped s)) ∧
      (∀ cc : Cond,
        exec (.retCc cc) s =
          .next (if condHolds s.f cc then goes (stackTop s) .none (popped s) else goes (s.pc + 1#16) .none s)) ∧
      exec .reti s = .next (goes (stackTop s) .intEnable (popped s))

/-- NOP, HALT, STOP, DI and EI, 48_system.md R240 to R244: only `pc` and the signal change. The signals of HALT, STOP, DI and EI and the
parameter STOP_LEN are the spec's decisions D5 to D7 (notes/assumptions/14.md). -/
def Obligations.SystemRowsOnlySignal : Prop :=
  ∀ s : State,
    exec .nop s = .next (goes (s.pc + 1#16) .none s) ∧
      exec .halt s = .next (goes (s.pc + 1#16) .halt s) ∧
      exec .stop s = .next (goes (s.pc + (match s.config.stopLen with | .one => 1#16 | .two => 2#16)) .stop s) ∧
      exec .di s = .next (goes (s.pc + 1#16) .intDisable s) ∧
      exec .ei s = .next (goes (s.pc + 1#16) .intEnable s)

/-- The prefix row, 48_system.md R245: it reads the byte at `pc + 1` and executes the prefixed table's instruction for it, which completes
for every byte; and a step whose first byte is 0xCB does so (the order of its two reads is notes/assumptions/10.md). -/
def Obligations.PrefixSelectsThePrefixedTable : Prop :=
  ∀ s : State,
    (exec .prefixCb s =
        exec (prefixedTable (busValue (s.pc + 1#16) s)) (busRead (s.pc + 1#16) s).2 ∧
      ∃ t, exec .prefixCb s = .next t ∧ t.pc = s.pc + 2#16) ∧
      (busValue s.pc s = 0xCB#8 → step s = exec .prefixCb (busRead s.pc s).2)

/-- The eleven ILLEGAL rows, 48_system.md R246, answer the fault with their own byte, unprefixed, whatever the state. That they are
instructions of the model at all is notes/assumptions/11.md. -/
def Obligations.IllegalRowsRaiseIllegalOpcode : Prop :=
  ∀ (i : Instr) (byte : Byte), i.illegalByte = some byte →
    byte ∈ illegalBytes ∧ encode i = [byte] ∧ ∀ s : State, exec i s = .fault (.illegalOpcode byte false)

/-! # Encoding -/

/-- Words written out from the encodings of spec/30_encoding.md, one or more of each family, decode to the instruction they stand for
(the opcode values are the published table's, notes/assumptions/7.md). The last clause, 0xD3 decoding to its ILLEGAL row, is the
model's choice (notes/assumptions/11.md): the spec's decoder answers none for that byte (30_encoding.md R74). -/
def Obligations.WordsOfTheTableDecode : Prop :=
  decode [0b10000001#8] = .ok (.addAR .c, []) ∧
    decode [0b11001110#8, 0x12#8] = .ok (.adcAN 0x12#8, []) ∧
    decode [0b10111110#8] = .ok (.cpHl, []) ∧
    decode [0b00111101#8] = .ok (.decR .a, []) ∧
    decode [0b00110011#8] = .ok (.incRR .sp, []) ∧
    decode [0b11101000#8, 0xFE#8] = .ok (.addSpE 0xFE#8, []) ∧
    decode [0b00011111#8] = .ok (.rra, []) ∧
    decode [0b11001011#8, 0b00110111#8] = .ok (.swapR .a, []) ∧
    decode [0b11001011#8, 0b01111110#8] = .ok (.bitHl 7#3, []) ∧
    decode [0b00100111#8] = .ok (.daa, []) ∧
    decode [0b01100101#8] = .ok (.ldReg .h .l, []) ∧
    decode [0b01110110#8] = .ok (.halt, []) ∧
    decode [0b11111010#8, 0x00#8, 0x80#8] = .ok (.ldANn 0x8000#16, []) ∧
    decode [0b00110001#8, 0xFE#8, 0xFF#8] = .ok (.ldRRNn .sp 0xFFFE#16, []) ∧
    decode [0b11010101#8] = .ok (.pushPair .de, []) ∧
    decode [0b11110001#8] = .ok (.popAf, []) ∧
    decode [0b11011010#8, 0x34#8, 0x12#8] = .ok (.jpCcNn .c 0x1234#16, []) ∧
    decode [0b11101111#8] = .ok (.rst 5#3, []) ∧
    decode [0b11010011#8] = .ok (.illegalD3, [])

/-- Decoding an encoded instruction gives it back, with every operand at every value, whatever bytes follow; the prefix row, which is no
instruction, decodes from its lone byte. Two parts are the model's choice: that the eleven ILLEGAL rows are encoded and decoded
like instructions, where the spec's decoder answers none (30_encoding.md R74; notes/assumptions/11.md), and that a lone 0xCB
decodes to the prefix row, the `Prefix` marker of 48_system.md R245 and decision D18 (notes/assumptions/10.md). -/
def Obligations.DecodeOfEncodeGivesTheInstruction : Prop :=
  (∀ (i : Instr) (rest : List Byte), i.isPrefixRow = false → decode (encode i ++ rest) = .ok (i, rest)) ∧
    decode (encode .prefixCb) = .ok (.prefixCb, [])

/-- Every list of bytes has at most one reading: what decodes to an instruction and a rest is that instruction's encoding, then that rest.
Distinct instructions have distinct encodings. -/
def Obligations.EncodeOfDecodeGivesTheBytes : Prop :=
  (∀ (bytes rest : List Byte) (i : Instr), decode bytes = .ok (i, rest) → bytes = encode i ++ rest) ∧
    ∀ i j : Instr, encode i = encode j → i = j

/-- The decoder is total, 60_exceptions.md R254: of the 512 pairs (byte, prefixed) 500 are instructions, 11 none, and (0xCB, unprefixed) the
prefix marker; the prefixed table holds an instruction form for every byte, never an ILLEGAL row or the prefix row (30_encoding.md R75);
and a step always ends in one of the two outcomes, never in a refusal. -/
def Obligations.DecoderIsTotalAndStepHasTwoOutcomes : Prop :=
  ((List.range 256).countP (fun k => decide (tableAnswer (BitVec.ofNat 8 k) false = .instruction)) +
        (List.range 256).countP (fun k => decide (tableAnswer (BitVec.ofNat 8 k) true = .instruction)) = 500) ∧
    ((List.range 256).countP (fun k => decide (tableAnswer (BitVec.ofNat 8 k) false = .none)) +
        (List.range 256).countP (fun k => decide (tableAnswer (BitVec.ofNat 8 k) true = .none)) = 11) ∧
    (∀ (byte : Byte) (prefixed : Bool), tableAnswer byte prefixed = .marker ↔ byte = 0xCB#8 ∧ prefixed = false) ∧
    (∀ op : Byte, (prefixedTable op).wellFormed = true) ∧
    ∀ s : State, (∃ t, step s = .next t) ∨ ∃ byte prefixed, step s = .fault (.illegalOpcode byte prefixed)

/-! # The step -/

/-- A step runs the decoded instruction: it executes what the three bytes from `pc` decode to, in the state that has recorded the reads of
the bytes that instruction has, and of no other. -/
def Obligations.StepRunsDecodedInstruction : Prop :=
  ∀ (s : State) (i : Instr) (rest : List Byte),
    decode (readBytes 3 s.pc s).1 = .ok (i, rest) → step s = exec i (readBytes (3 - rest.length) s.pc s).2

/-- Where the bytes from `pc` are an instruction's encoding, the step executes that instruction. -/
def Obligations.StepRunsEncodedInstruction : Prop :=
  ∀ (s : State) (i : Instr), i.isPrefixRow = false → (readBytes (encode i).length s.pc s).1 = encode i →
    step s = exec i (readBytes (encode i).length s.pc s).2

/-- Which steps fault, 60_exceptions.md R250: exactly those whose first byte is one of the eleven, with that byte, unprefixed, as the record. -/
def Obligations.StepFaultsExactlyOnElevenBytes : Prop :=
  ∀ s : State,
    ((∃ f, step s = .fault f) ↔ busValue s.pc s ∈ illegalBytes) ∧
      ∀ f, step s = .fault f → f = .illegalOpcode (busValue s.pc s) false

/-- Where `pc` goes, 30_encoding.md R65, for every instruction: past its bytes, or to the target of a transfer that is taken. The targets of
RST and JP HL and STOP_LEN are the spec's decisions (notes/assumptions/14.md, 24.md). -/
def Obligations.PcAdvancesByLengthOrToTarget : Prop :=
  ∀ (i : Instr) (s t : State), exec i s = .next t → t.pc = nextPc i s

/-- The transactions of a step, 20_memory.md R46: the first is the read at `pc`; every read comes before every write; at most four reads and
two writes; and the configuration is never written. The order of data accesses is the spec's decision D12 (notes/assumptions/19.md). -/
def Obligations.StepReadsFromPcThenWrites : Prop :=
  ∀ s t : State, step s = .next t →
    ∃ writes reads : List BusEvent,
      t.bus = writes ++ (reads ++ .read s.pc (busValue s.pc s) :: s.bus) ∧
        (∀ e ∈ writes, isRead e = false) ∧ (∀ e ∈ reads, isRead e = true) ∧
        writes.length ≤ 2 ∧ reads.length ≤ 3 ∧ t.config = s.config

/-! # Invariants and whole-machine rules -/

/-- Every step keeps the memory's canonical form. -/
def Obligations.StepKeepsMemoryCanonical : Prop :=
  ∀ s t : State, s.mem.wf = true → step s = .next t → t.mem.wf = true

/-- The reset state's memory is in canonical form, and so is every memory a program is placed in by `withFetchWord`. -/
def Obligations.ResetMemoryIsCanonical : Prop :=
  State.reset.mem.wf = true ∧
    ∀ (s : State) (nbits w : Nat), s.mem.wf = true → (s.withFetchWord nbits w).mem.wf = true

/-- The trivial sequential memory, 20_memory.md R50: from a launch with memory `m0`, after every step each plain cell holds the most recent
write to its address or its initial content, and every read that was recorded returned what its cell held, or what the
collaborator answered, at that moment. A fault keeps it too. -/
def Obligations.StepKeepsMemoryCoherentWithHistory : Prop :=
  ∀ (m0 : Memory) (s : State), Coherent m0 s →
    (∀ t, step s = .next t → Coherent m0 t) ∧ Coherent m0 s.afterFault

/-- A launch state, with a canonical memory and an empty history, is coherent with that memory; so is the reset state. -/
def Obligations.LaunchIsCoherent : Prop :=
  (∀ s : State, s.mem.wf = true → s.bus = [] → Coherent s.mem s) ∧ Coherent [] State.reset

/-- No hidden state, 10_state.md R31: two states that agree in A to L, F, `sp`, `pc` and STOP_LEN and answer alike to every read that may
come take steps with the same outcome, the same transactions and the same core state after it. (Decisions D6 and D18.) -/
def Obligations.StepDependsOnlyOnCoreAndAnswers : Prop :=
  ∀ s t : State, sameCore s t → s.config.stopLen = t.config.stopLen →
    (∀ (reads : List BusEvent) (addr : Word), (∀ e ∈ reads, isRead e = true) → answerAfter s reads addr = answerAfter t reads addr) →
    (∀ f, step s = .fault f → step t = .fault f) ∧
      ∀ s', step s = .next s' → ∃ t', step t = .next t' ∧ sameCore s' t' ∧ s'.signal = t'.signal ∧
        ∃ events : List BusEvent, s'.bus = events ++ s.bus ∧ t'.bus = events ++ t.bus

/-- A store is seen by the next fetch, 20_memory.md R53: after LD (nn),A into the byte the next instruction starts with, that byte is what
the next step fetches. -/
def Obligations.StoreIsSeenByNextFetch : Prop :=
  ∀ s : State, s.mem.wf = true → plain s (s.pc + 3#16) →
    ∃ t, exec (.ldNnA (s.pc + 3#16)) s = .next t ∧ t.pc = s.pc + 3#16 ∧ busValue t.pc t = s.a

/-- Only the listed instructions write `sp`, 10_state.md R29. -/
def Obligations.OnlyListedInstructionsWriteSp : Prop :=
  ∀ (i : Instr) (s t : State), exec i s = .next t → writesSp i = false → t.sp = s.sp

/-- Every general register keeps its value but those the row's rule writes; for the prefix row, those of the entry it selects. -/
def Obligations.OnlyDestinationRegistersChange : Prop :=
  ∀ (i : Instr) (s t : State), exec i s = .next t →
    ∀ r : Reg8, r ∉ registersWritten (rowRun i s) → t.getReg r = s.getReg r

/-- Every flag of every row is as the flag summary of 10_state.md section 7 says: unchanged, cleared, set, or computed; for the prefix row,
as the entry it selects. -/
def Obligations.FlagsFollowTheSummaryTable : Prop :=
  ∀ (i : Instr) (s t : State), exec i s = .next t →
    (flagRow (rowRun i s)).z.holds s.f.z t.f.z ∧ (flagRow (rowRun i s)).n.holds s.f.n t.f.n ∧
      (flagRow (rowRun i s)).h.holds s.f.h t.f.h ∧ (flagRow (rowRun i s)).c.holds s.f.c t.f.c

/-- Every byte of memory keeps its value but those at the addresses the row stores to; for the prefix row, those of the entry it selects. -/
def Obligations.OnlyStoredBytesChange : Prop :=
  ∀ (i : Instr) (s t : State), exec i s = .next t →
    ∀ addr : Word, addr ∉ storesTo (rowRun i s) s → t.mem.read addr.toNat = s.mem.read addr.toNat

/-- The signal of every outcome, 60_exceptions.md R259 (decisions D5 to D7, notes/assumptions/14.md): `none` but for EI, RETI, DI, HALT, STOP. -/
def Obligations.OnlyFiveInstructionsSignal : Prop :=
  ∀ (i : Instr) (s t : State), exec i s = .next t → t.signal = signalOf i

/-! # Parts of the state -/

/-- The flags byte, 10_state.md R26: `to_byte` gives `Z*128 + N*64 + H*32 + C*16`, `from_byte` ignores bits 3 to 0, and each undoes the other
up to them. -/
def Obligations.FlagsByteRoundTrips : Prop :=
  (∀ f : Flags, (flagsToByte f).toNat = 128 * f.z.toNat + 64 * f.n.toNat + 32 * f.h.toNat + 16 * f.c.toNat) ∧
    (∀ x : Byte, flagsToByte (flagsFromByte x) = x &&& 0xF0#8) ∧ ∀ f : Flags, flagsFromByte (flagsToByte f) = f

/-- The register file and its pair views, 10_state.md R20 and R24: a read returns the last value written; a write changes no other register;
a pair is its two bytes, written together, and sees a later write of either. -/
def Obligations.RegistersAndPairViewsAgree : Prop :=
  (∀ (s : State) (r r' : Reg8) (v : Byte), (s.setReg r v).getReg r' = if r' = r then v else s.getReg r') ∧
    (∀ (s : State) (q : Pair) (w : Word), (s.setPair q w).getPair q = w) ∧
    (∀ (s : State) (q q' : Pair) (w : Word), q' ≠ q → (s.setPair q w).getPair q' = s.getPair q') ∧
    ∀ s : State, (s.getPair .bc).toNat = 256 * s.b.toNat + s.c.toNat ∧ (s.getPair .de).toNat = 256 * s.d.toNat + s.e.toNat ∧
      (s.getPair .hl).toNat = 256 * s.h.toNat + s.l.toNat

/-- The conditions, 40_alu_primitives.md R99: codes 0 to 3 are NZ, Z, NC, C; there is none on N or H; and a conditional form whose condition
holds is the unconditional form. -/
def Obligations.ConditionsReadZeroOrCarry : Prop :=
  (∀ f : Flags,
      condHolds f (Cond.ofCode 0#2) = !f.z ∧ condHolds f (Cond.ofCode 1#2) = f.z ∧
        condHolds f (Cond.ofCode 2#2) = !f.c ∧ condHolds f (Cond.ofCode 3#2) = f.c) ∧
    (∀ (f : Flags) (n h : Bool) (cc : Cond), condHolds { f with n := n, h := h } cc = condHolds f cc) ∧
    ∀ (cc : Cond) (s : State), condHolds s.f cc = true →
      (∀ nn : Word, exec (.jpCcNn cc nn) s = exec (.jpNn nn) s ∧ exec (.callCcNn cc nn) s = exec (.callNn nn) s) ∧
        (∀ e : Byte, exec (.jrCcE cc e) s = exec (.jrE e) s) ∧ exec (.retCc cc) s = exec .ret s

/-- A bus write, 20_memory.md R41 and R50: at a plain address the byte there reads as written and every other byte of memory reads as before;
elsewhere (notes/assumptions/2.md) the memory does not change; and the history records it either way. -/
def Obligations.BusWriteChangesOneByte : Prop :=
  ∀ (s : State) (addr : Word) (v : Byte),
    (busWrite addr v s).bus = .write addr v :: s.bus ∧
      (plain s addr → s.mem.wf = true →
        ∀ q : Word, (busWrite addr v s).mem.read q.toNat = if q = addr then v else s.mem.read q.toNat) ∧
      (¬ plain s addr → (busWrite addr v s).mem = s.mem)

/-- A bus read, 20_memory.md R41 and R50: it returns the cell of plain memory, or the free answer of the collaborator (notes/assumptions/2.md),
changes nothing but the history, and reading again gives the same where the address is plain. -/
def Obligations.BusReadAnswersAndIsRecorded : Prop :=
  ∀ (s : State) (addr : Word),
    (busRead addr s).2 = { s with bus := .read addr (busRead addr s).1 :: s.bus } ∧
      (plain s addr → (busRead addr s).1 = s.mem.read addr.toNat ∧ (busRead addr (busRead addr s).2).1 = (busRead addr s).1) ∧
      (¬ plain s addr → (busRead addr s).1 = Config.collaboratorRead s.bus addr)

/-- CALL then RET, 47_control_flow.md R225 and R227: with both stack bytes in plain memory, RET from the called address returns to the byte
after the CALL with `sp` as before it. -/
def Obligations.RetUndoesCall : Prop :=
  ∀ (s : State) (nn : Word), s.mem.wf = true → plain s (s.sp - 1#16) → plain s (s.sp - 2#16) →
    ∃ t u, exec (.callNn nn) s = .next t ∧ t.pc = nn ∧ t.sp = s.sp - 2#16 ∧
      exec .ret t = .next u ∧ u.pc = s.pc + 3#16 ∧ u.sp = s.sp

/-! # Faults, the host's inputs, reset and the end of a run -/

/-- State after a fault, 60_exceptions.md R251: the host is answered the fault; no register, flag, `sp`, `pc` or memory byte has changed, the
history holds the one read at `pc`, no signal is given; and where that byte is plain memory every further step faults again.
That `pc` stays is the spec's decision D4 (notes/assumptions/9.md). -/
def Obligations.FaultWritesNothingAndRepeats : Prop :=
  ∀ (s : State) (f : Fault), step s = .fault f →
    respond .step s = some (s.afterFault, some (.fault (busValue s.pc s) false)) ∧
      sameCore s s.afterFault ∧ s.afterFault.mem = s.mem ∧ s.afterFault.config = s.config ∧
      s.afterFault.signal = s.signal ∧ s.afterFault.bus = .read s.pc (busValue s.pc s) :: s.bus ∧
      (plain s s.pc → ∀ k : Nat, sameCore s (faultedTimes k s) ∧ step (faultedTimes k s) = .fault f)

/-- The host's recovery, 60_exceptions.md R253: `skip` exists only with HOST_SKIP, writes `pc` only, and after a fault leaves the block where a
NOP in the place of the illegal byte would have (decision D4; that it follows a fault is the host's, notes/assumptions/21.md). -/
def Obligations.SkipAfterFaultSubstitutesNop : Prop :=
  ∀ s : State,
    (s.config.hostSkip = false → ∀ k, hasInput s.config (.skip k) = false ∧ respond (.skip k) s = none) ∧
      (s.config.hostSkip = true →
        respond (.skip .one) s = some ({ s with pc := s.pc + 1#16 }, none) ∧
          respond (.skip .two) s = some ({ s with pc := s.pc + 2#16 }, none)) ∧
      ∀ f, step s = .fault f → ∃ t, exec .nop (busRead s.pc s).2 = .next t ∧ sameCore t (s.afterFault.skipBy .one) ∧
        t.mem = (s.afterFault.skipBy .one).mem ∧ t.bus = (s.afterFault.skipBy .one).bus

/-- The reset input, 70_reset_and_hazards.md R280 and R283: every register takes its RESET_STATE value, whatever the state was; no transaction, no
outcome, memory, history and configuration as they were (decision D1). The last clause, that the field `signal`, which is the model's
own, is `none` after a reset, is the model's choice (notes/assumptions/20.md). -/
def Obligations.ResetInputLoadsResetState : Prop :=
  ∀ s : State, ∃ t, respond .reset s = some (t, none) ∧
    (t.a = s.config.resetState.a ∧ t.b = s.config.resetState.b ∧ t.c = s.config.resetState.c ∧ t.d = s.config.resetState.d ∧
      t.e = s.config.resetState.e ∧ t.h = s.config.resetState.h ∧ t.l = s.config.resetState.l ∧ t.f = s.config.resetState.f ∧
      t.sp = s.config.resetState.sp ∧ t.pc = s.config.resetState.pc) ∧
    t.mem = s.mem ∧ t.bus = s.bus ∧ t.config = s.config ∧ t.signal = .none

/-- The default reset values, 70_reset_and_hazards.md R281, which are the spec's own choice (D1, D2; notes/assumptions/3.md): every register
zero, every flag false. -/
def Obligations.DefaultResetIsAllZero : Prop :=
  (∀ r, State.reset.getReg r = 0#8) ∧ flagsToByte State.reset.f = 0#8 ∧ State.reset.sp = 0#16 ∧ State.reset.pc = 0#16 ∧
    ∀ s : State, s.config = Config.default → ∃ t, respond .reset s = some (t, none) ∧ sameCore t State.reset

/-- The end of a run, 70_reset_and_hazards.md R285 (decision D30, notes/assumptions/27.md): it goes on after `none`, `int_enable` and
`int_disable`, ends in success on `halt` and `stop`, and in failure on a fault. -/
def Obligations.RunEndsOnHaltStopOrFault : Prop :=
  ∀ (fuel : Nat) (s : State),
    (∀ t, step s = .next t →
        (t.signal = .halt ∨ t.signal = .stop → runSteps (fuel + 1) s = (t, some .success)) ∧
          (t.signal = .none ∨ t.signal = .intEnable ∨ t.signal = .intDisable → runSteps (fuel + 1) s = runSteps fuel t)) ∧
      ∀ f, step s = .fault f → runSteps (fuel + 1) s = (s.afterFault, some .failure)

/-- The decode record, 60_exceptions.md R262 (decision D14, notes/assumptions/26.md): it holds `pc`, the one or two bytes fetched before
decoding, and the instruction the step executes, or none exactly when the step faults. -/
def Obligations.DecodeRecordDescribesTheStep : Prop :=
  ∀ s : State,
    (decodeRecord s).pc = s.pc ∧
      ((decodeRecord s).prefixed = true ↔ busValue s.pc s = 0xCB#8) ∧
      (decodeRecord s).bytes = (readBytes (if (decodeRecord s).prefixed then 2 else 1) s.pc s).1 ∧
      ((decodeRecord s).form = none ↔ ∃ f, step s = .fault f) ∧
      ∀ i, (decodeRecord s).form = some i → step s = exec i (fetch s).2

end
end

