-- ==== Sys2Proof/Laws/Bits.lean ====
section
/-! SUPPORT. Words and their halves as numbers (00_scope.md R6): each helper's value, and that halves and concatenation undo each other. -/

namespace Sys2Proof

theorem mkWord_toNat (h l : Byte) : (mkWord h l).toNat = h.toNat * 256 + l.toNat := by
  unfold mkWord
  rw [BitVec.toNat_append, ← Nat.shiftLeft_add_eq_or_of_lt l.isLt, Nat.shiftLeft_eq]

theorem hiByte_toNat (w : Word) : (hiByte w).toNat = w.toNat / 256 := by
  have := w.isLt
  unfold hiByte
  rw [BitVec.extractLsb'_toNat, Nat.shiftRight_eq_div_pow]
  omega

theorem loByte_toNat (w : Word) : (loByte w).toNat = w.toNat % 256 := by
  unfold loByte
  rw [BitVec.extractLsb'_toNat, Nat.shiftRight_eq_div_pow]
  omega

@[simp] theorem hiByte_mkWord (h l : Byte) : hiByte (mkWord h l) = h := by
  have := l.isLt
  apply BitVec.eq_of_toNat_eq
  rw [hiByte_toNat, mkWord_toNat]
  omega

@[simp] theorem loByte_mkWord (h l : Byte) : loByte (mkWord h l) = l := by
  have := l.isLt
  apply BitVec.eq_of_toNat_eq
  rw [loByte_toNat, mkWord_toNat]
  omega

@[simp] theorem mkWord_hi_lo (w : Word) : mkWord (hiByte w) (loByte w) = w := by
  apply BitVec.eq_of_toNat_eq
  rw [mkWord_toNat, hiByte_toNat, loByte_toNat]
  omega

theorem zext16_toNat (b : Byte) : (zext16 b).toNat = b.toNat := by
  have := b.isLt
  unfold zext16
  rw [BitVec.zeroExtend_eq_setWidth, BitVec.toNat_setWidth]
  omega

/-- `sext_16(b)`: `b` if `b < 128`, else `b + 0xFF00` (00_scope.md R6). -/
theorem sext16_toNat (b : Byte) : (sext16 b).toNat = if b.toNat < 128 then b.toNat else b.toNat + 0xFF00 := by
  revert b
  decide

end Sys2Proof
end

