-- ==== Sys2Proof/Laws/Memory.lean ====
section
/-! SUPPORT. The laws of plain memory: a read after a write, and that a write keeps the canonical form. -/

namespace Sys2Proof.Machine

/-- Every listed address is at least `lo`. -/
def Memory.above (lo : Nat) : Memory → Prop
  | [] => True
  | (k, _) :: rest => lo ≤ k ∧ Memory.above lo rest

@[simp] theorem Memory.above_nil (lo : Nat) : Memory.above lo [] := trivial

@[simp] theorem Memory.above_cons (lo k : Nat) (v : Byte) (rest : Memory) :
    Memory.above lo ((k, v) :: rest) ↔ lo ≤ k ∧ Memory.above lo rest := Iff.rfl

/-- The canonical form, cell by cell: what `Memory.wf` decides. -/
theorem Memory.wf_cons {k : Nat} {v : Byte} {rest : Memory} :
    Memory.wf ((k, v) :: rest) = true ↔
      k < 65536 ∧ v ≠ Memory.unlisted ∧ Memory.above (k + 1) rest ∧ Memory.wf rest = true := by
  induction rest generalizing k v with
  | nil => simp [Memory.wf, Memory.above]
  | cons cell rest ih =>
    obtain ⟨k', v'⟩ := cell
    have weaken : ∀ (m : Memory) (a b : Nat), a ≤ b → Memory.above b m → Memory.above a m := by
      intro m a b hab
      induction m with
      | nil => simp [Memory.above]
      | cons c m ihm => simp only [Memory.above]; exact fun h => ⟨by omega, ihm h.2⟩
    have unfold_wf : Memory.wf ((k, v) :: (k', v') :: rest) = true ↔
        k < 65536 ∧ v ≠ Memory.unlisted ∧ k < k' ∧ Memory.wf ((k', v') :: rest) = true := by
      simp [Memory.wf, and_assoc]
    rw [unfold_wf]
    constructor
    · rintro ⟨hk, hv, hkk, hw⟩
      exact ⟨hk, hv, ⟨hkk, weaken rest (k + 1) (k' + 1) (by omega) (ih.mp hw).2.2.1⟩, hw⟩
    · rintro ⟨hk, hv, hf, hw⟩
      exact ⟨hk, hv, hf.1, hw⟩

theorem Memory.above_mono {m : Memory} {a b : Nat} (hab : a ≤ b) (h : Memory.above b m) : Memory.above a m := by
  induction m with
  | nil => exact Memory.above_nil a
  | cons c m ih => exact ⟨le_trans hab h.1, ih h.2⟩

/-- An address below every listed one reads as an unlisted byte. -/
theorem Memory.read_of_above {m : Memory} {addr lo : Nat} (h : Memory.above lo m) (hlt : addr < lo) :
    m.read addr = Memory.unlisted := by
  induction m with
  | nil => rfl
  | cons c m ih =>
    have : addr ≠ c.1 := by have := h.1; omega
    simp [Memory.read, this, ih h.2]

theorem Memory.read_consCell {rest : Memory} {addr : Nat} {v : Byte} (h : Memory.above (addr + 1) rest) (q : Nat) :
    (Memory.consCell addr v rest).read q = if q = addr then v else rest.read q := by
  unfold Memory.consCell
  split
  · next hv =>
    split
    · next hq => rw [hq, Memory.read_of_above h (Nat.lt_succ_self addr), hv]
    · rfl
  · simp [Memory.read]

/-- A read after a write: the value at the address, everything else as before. -/
theorem Memory.read_write {m : Memory} (h : m.wf = true) (addr : Nat) (v : Byte) (q : Nat) :
    (m.write addr v).read q = if q = addr then v else m.read q := by
  induction m with
  | nil => rw [Memory.write, Memory.read_consCell (Memory.above_nil _)]
  | cons cell rest ih =>
    obtain ⟨k, w⟩ := cell
    obtain ⟨hk, hw, hf, hr⟩ := Memory.wf_cons.mp h
    unfold Memory.write
    split
    · next hlt =>
      rw [Memory.read_consCell ((Memory.above_cons _ _ _ _).mpr ⟨hlt, Memory.above_mono (by omega) hf⟩)]
    · split
      · next heq =>
        subst heq
        rw [Memory.read_consCell hf]
        by_cases hq : q = addr <;> simp [Memory.read, hq]
      · next hne =>
        by_cases hq : q = k
        · have : k ≠ addr := fun hka => hne hka.symm
          simp [Memory.read, hq, this]
        · simp [Memory.read, hq, ih hr]

theorem Memory.above_consCell {rest : Memory} {addr lo : Nat} {v : Byte} (hlo : lo ≤ addr) (h : Memory.above lo rest) :
    Memory.above lo (Memory.consCell addr v rest) := by
  unfold Memory.consCell
  split
  · exact h
  · exact ⟨hlo, h⟩

theorem Memory.above_write {m : Memory} {addr lo : Nat} {v : Byte} (hlo : lo ≤ addr) (h : Memory.above lo m) :
    Memory.above lo (m.write addr v) := by
  induction m with
  | nil => exact Memory.above_consCell hlo (Memory.above_nil _)
  | cons cell rest ih =>
    obtain ⟨k, w⟩ := cell
    unfold Memory.write
    split
    · exact Memory.above_consCell hlo h
    · split
      · exact Memory.above_consCell hlo h.2
      · exact ⟨h.1, ih h.2⟩

theorem Memory.wf_consCell {rest : Memory} {addr : Nat} {v : Byte} (ha : addr < 65536)
    (hf : Memory.above (addr + 1) rest) (hr : rest.wf = true) : (Memory.consCell addr v rest).wf = true := by
  unfold Memory.consCell
  split
  · exact hr
  · next hv => exact Memory.wf_cons.mpr ⟨ha, hv, hf, hr⟩

/-- A write inside the address space keeps the canonical form. -/
theorem Memory.wf_write {m : Memory} (h : m.wf = true) {addr : Nat} (ha : addr < 65536) (v : Byte) :
    (m.write addr v).wf = true := by
  induction m with
  | nil => exact Memory.wf_consCell ha (Memory.above_nil _) h
  | cons cell rest ih =>
    obtain ⟨k, w⟩ := cell
    obtain ⟨hk, hw, hf, hr⟩ := Memory.wf_cons.mp h
    unfold Memory.write
    split
    · next hlt => exact Memory.wf_consCell ha ((Memory.above_cons _ _ _ _).mpr ⟨hlt, Memory.above_mono (by omega) hf⟩) h
    · split
      · next heq => subst heq; exact Memory.wf_consCell ha hf hr
      · next hne => exact Memory.wf_cons.mpr ⟨hk, hw, Memory.above_write (by omega) hf, ih hr⟩

/-- The empty memory is in canonical form. -/
theorem Memory.wf_nil : Memory.wf [] = true := rfl

end Sys2Proof.Machine
end

