-- ==== Sys2Proof/Laws/State.lean ====
section
/-! SUPPORT. What each update of the state leaves in each field, one lemma per field per update, so that no proof unfolds a record update.
The updates: `setReg`, `setPair`, `setRR`, `setFlags`, `commit`, the state after a bus read, and the state after a bus write. -/

namespace Sys2Proof.Machine

/-! ## setFlags -/

@[simp] theorem State.setFlags_a (s : State) (f : Flags) :
    (s.setFlags f).a = s.a := rfl

@[simp] theorem State.setFlags_b (s : State) (f : Flags) :
    (s.setFlags f).b = s.b := rfl

@[simp] theorem State.setFlags_c (s : State) (f : Flags) :
    (s.setFlags f).c = s.c := rfl

@[simp] theorem State.setFlags_d (s : State) (f : Flags) :
    (s.setFlags f).d = s.d := rfl

@[simp] theorem State.setFlags_e (s : State) (f : Flags) :
    (s.setFlags f).e = s.e := rfl

@[simp] theorem State.setFlags_h (s : State) (f : Flags) :
    (s.setFlags f).h = s.h := rfl

@[simp] theorem State.setFlags_l (s : State) (f : Flags) :
    (s.setFlags f).l = s.l := rfl

@[simp] theorem State.setFlags_f (s : State) (f : Flags) :
    (s.setFlags f).f = f := rfl

@[simp] theorem State.setFlags_sp (s : State) (f : Flags) :
    (s.setFlags f).sp = s.sp := rfl

@[simp] theorem State.setFlags_pc (s : State) (f : Flags) :
    (s.setFlags f).pc = s.pc := rfl

@[simp] theorem State.setFlags_mem (s : State) (f : Flags) :
    (s.setFlags f).mem = s.mem := rfl

@[simp] theorem State.setFlags_bus (s : State) (f : Flags) :
    (s.setFlags f).bus = s.bus := rfl

@[simp] theorem State.setFlags_signal (s : State) (f : Flags) :
    (s.setFlags f).signal = s.signal := rfl

@[simp] theorem State.setFlags_config (s : State) (f : Flags) :
    (s.setFlags f).config = s.config := rfl

/-! ## commit -/

@[simp] theorem State.commit_a (s : State) (w : Word) (g : Signal) :
    (s.commit w g).a = s.a := rfl

@[simp] theorem State.commit_b (s : State) (w : Word) (g : Signal) :
    (s.commit w g).b = s.b := rfl

@[simp] theorem State.commit_c (s : State) (w : Word) (g : Signal) :
    (s.commit w g).c = s.c := rfl

@[simp] theorem State.commit_d (s : State) (w : Word) (g : Signal) :
    (s.commit w g).d = s.d := rfl

@[simp] theorem State.commit_e (s : State) (w : Word) (g : Signal) :
    (s.commit w g).e = s.e := rfl

@[simp] theorem State.commit_h (s : State) (w : Word) (g : Signal) :
    (s.commit w g).h = s.h := rfl

@[simp] theorem State.commit_l (s : State) (w : Word) (g : Signal) :
    (s.commit w g).l = s.l := rfl

@[simp] theorem State.commit_f (s : State) (w : Word) (g : Signal) :
    (s.commit w g).f = s.f := rfl

@[simp] theorem State.commit_sp (s : State) (w : Word) (g : Signal) :
    (s.commit w g).sp = s.sp := rfl

@[simp] theorem State.commit_pc (s : State) (w : Word) (g : Signal) :
    (s.commit w g).pc = w := rfl

@[simp] theorem State.commit_mem (s : State) (w : Word) (g : Signal) :
    (s.commit w g).mem = s.mem := rfl

@[simp] theorem State.commit_bus (s : State) (w : Word) (g : Signal) :
    (s.commit w g).bus = s.bus := rfl

@[simp] theorem State.commit_signal (s : State) (w : Word) (g : Signal) :
    (s.commit w g).signal = g := rfl

@[simp] theorem State.commit_config (s : State) (w : Word) (g : Signal) :
    (s.commit w g).config = s.config := rfl

/-! ## setReg -/

@[simp] theorem State.setReg_a (s : State) (r : Reg8) (v : Byte) :
    (s.setReg r v).a = if r = .a then v else s.a := by
  cases r <;> rfl

@[simp] theorem State.setReg_b (s : State) (r : Reg8) (v : Byte) :
    (s.setReg r v).b = if r = .b then v else s.b := by
  cases r <;> rfl

@[simp] theorem State.setReg_c (s : State) (r : Reg8) (v : Byte) :
    (s.setReg r v).c = if r = .c then v else s.c := by
  cases r <;> rfl

@[simp] theorem State.setReg_d (s : State) (r : Reg8) (v : Byte) :
    (s.setReg r v).d = if r = .d then v else s.d := by
  cases r <;> rfl

@[simp] theorem State.setReg_e (s : State) (r : Reg8) (v : Byte) :
    (s.setReg r v).e = if r = .e then v else s.e := by
  cases r <;> rfl

@[simp] theorem State.setReg_h (s : State) (r : Reg8) (v : Byte) :
    (s.setReg r v).h = if r = .h then v else s.h := by
  cases r <;> rfl

@[simp] theorem State.setReg_l (s : State) (r : Reg8) (v : Byte) :
    (s.setReg r v).l = if r = .l then v else s.l := by
  cases r <;> rfl

@[simp] theorem State.setReg_f (s : State) (r : Reg8) (v : Byte) :
    (s.setReg r v).f = s.f := by
  cases r <;> rfl

@[simp] theorem State.setReg_sp (s : State) (r : Reg8) (v : Byte) :
    (s.setReg r v).sp = s.sp := by
  cases r <;> rfl

@[simp] theorem State.setReg_pc (s : State) (r : Reg8) (v : Byte) :
    (s.setReg r v).pc = s.pc := by
  cases r <;> rfl

@[simp] theorem State.setReg_mem (s : State) (r : Reg8) (v : Byte) :
    (s.setReg r v).mem = s.mem := by
  cases r <;> rfl

@[simp] theorem State.setReg_bus (s : State) (r : Reg8) (v : Byte) :
    (s.setReg r v).bus = s.bus := by
  cases r <;> rfl

@[simp] theorem State.setReg_signal (s : State) (r : Reg8) (v : Byte) :
    (s.setReg r v).signal = s.signal := by
  cases r <;> rfl

@[simp] theorem State.setReg_config (s : State) (r : Reg8) (v : Byte) :
    (s.setReg r v).config = s.config := by
  cases r <;> rfl

@[simp] theorem State.getReg_setReg (s : State) (r q : Reg8) (v : Byte) :
    (s.setReg r v).getReg q = if q = r then v else s.getReg q := by
  cases r <;> cases q <;> rfl

/-! ## setPair -/

@[simp] theorem State.setPair_a (s : State) (q : Pair) (w : Word) :
    (s.setPair q w).a = s.a := by
  cases q <;> rfl

@[simp] theorem State.setPair_b (s : State) (q : Pair) (w : Word) :
    (s.setPair q w).b = if q = .bc then hiByte w else s.b := by
  cases q <;> rfl

@[simp] theorem State.setPair_c (s : State) (q : Pair) (w : Word) :
    (s.setPair q w).c = if q = .bc then loByte w else s.c := by
  cases q <;> rfl

@[simp] theorem State.setPair_d (s : State) (q : Pair) (w : Word) :
    (s.setPair q w).d = if q = .de then hiByte w else s.d := by
  cases q <;> rfl

@[simp] theorem State.setPair_e (s : State) (q : Pair) (w : Word) :
    (s.setPair q w).e = if q = .de then loByte w else s.e := by
  cases q <;> rfl

@[simp] theorem State.setPair_h (s : State) (q : Pair) (w : Word) :
    (s.setPair q w).h = if q = .hl then hiByte w else s.h := by
  cases q <;> rfl

@[simp] theorem State.setPair_l (s : State) (q : Pair) (w : Word) :
    (s.setPair q w).l = if q = .hl then loByte w else s.l := by
  cases q <;> rfl

@[simp] theorem State.setPair_f (s : State) (q : Pair) (w : Word) :
    (s.setPair q w).f = s.f := by
  cases q <;> rfl

@[simp] theorem State.setPair_sp (s : State) (q : Pair) (w : Word) :
    (s.setPair q w).sp = s.sp := by
  cases q <;> rfl

@[simp] theorem State.setPair_pc (s : State) (q : Pair) (w : Word) :
    (s.setPair q w).pc = s.pc := by
  cases q <;> rfl

@[simp] theorem State.setPair_mem (s : State) (q : Pair) (w : Word) :
    (s.setPair q w).mem = s.mem := by
  cases q <;> rfl

@[simp] theorem State.setPair_bus (s : State) (q : Pair) (w : Word) :
    (s.setPair q w).bus = s.bus := by
  cases q <;> rfl

@[simp] theorem State.setPair_signal (s : State) (q : Pair) (w : Word) :
    (s.setPair q w).signal = s.signal := by
  cases q <;> rfl

@[simp] theorem State.setPair_config (s : State) (q : Pair) (w : Word) :
    (s.setPair q w).config = s.config := by
  cases q <;> rfl

/-! ## setRR -/

@[simp] theorem State.setRR_a (s : State) (p : RR) (w : Word) :
    (s.setRR p w).a = s.a := by
  cases p <;> rfl

@[simp] theorem State.setRR_b (s : State) (p : RR) (w : Word) :
    (s.setRR p w).b = if p = .bc then hiByte w else s.b := by
  cases p <;> rfl

@[simp] theorem State.setRR_c (s : State) (p : RR) (w : Word) :
    (s.setRR p w).c = if p = .bc then loByte w else s.c := by
  cases p <;> rfl

@[simp] theorem State.setRR_d (s : State) (p : RR) (w : Word) :
    (s.setRR p w).d = if p = .de then hiByte w else s.d := by
  cases p <;> rfl

@[simp] theorem State.setRR_e (s : State) (p : RR) (w : Word) :
    (s.setRR p w).e = if p = .de then loByte w else s.e := by
  cases p <;> rfl

@[simp] theorem State.setRR_h (s : State) (p : RR) (w : Word) :
    (s.setRR p w).h = if p = .hl then hiByte w else s.h := by
  cases p <;> rfl

@[simp] theorem State.setRR_l (s : State) (p : RR) (w : Word) :
    (s.setRR p w).l = if p = .hl then loByte w else s.l := by
  cases p <;> rfl

@[simp] theorem State.setRR_f (s : State) (p : RR) (w : Word) :
    (s.setRR p w).f = s.f := by
  cases p <;> rfl

@[simp] theorem State.setRR_sp (s : State) (p : RR) (w : Word) :
    (s.setRR p w).sp = if p = .sp then w else s.sp := by
  cases p <;> rfl

@[simp] theorem State.setRR_pc (s : State) (p : RR) (w : Word) :
    (s.setRR p w).pc = s.pc := by
  cases p <;> rfl

@[simp] theorem State.setRR_mem (s : State) (p : RR) (w : Word) :
    (s.setRR p w).mem = s.mem := by
  cases p <;> rfl

@[simp] theorem State.setRR_bus (s : State) (p : RR) (w : Word) :
    (s.setRR p w).bus = s.bus := by
  cases p <;> rfl

@[simp] theorem State.setRR_signal (s : State) (p : RR) (w : Word) :
    (s.setRR p w).signal = s.signal := by
  cases p <;> rfl

@[simp] theorem State.setRR_config (s : State) (p : RR) (w : Word) :
    (s.setRR p w).config = s.config := by
  cases p <;> rfl

/-! ## The state after a bus read -/

@[simp] theorem busRead_value (addr : Word) (s : State) :
    (busRead addr s).1 = busValue addr s := rfl

@[simp] theorem busRead_a (addr : Word) (s : State) :
    (busRead addr s).2.a = s.a := rfl

@[simp] theorem busRead_b (addr : Word) (s : State) :
    (busRead addr s).2.b = s.b := rfl

@[simp] theorem busRead_c (addr : Word) (s : State) :
    (busRead addr s).2.c = s.c := rfl

@[simp] theorem busRead_d (addr : Word) (s : State) :
    (busRead addr s).2.d = s.d := rfl

@[simp] theorem busRead_e (addr : Word) (s : State) :
    (busRead addr s).2.e = s.e := rfl

@[simp] theorem busRead_h (addr : Word) (s : State) :
    (busRead addr s).2.h = s.h := rfl

@[simp] theorem busRead_l (addr : Word) (s : State) :
    (busRead addr s).2.l = s.l := rfl

@[simp] theorem busRead_f (addr : Word) (s : State) :
    (busRead addr s).2.f = s.f := rfl

@[simp] theorem busRead_sp (addr : Word) (s : State) :
    (busRead addr s).2.sp = s.sp := rfl

@[simp] theorem busRead_pc (addr : Word) (s : State) :
    (busRead addr s).2.pc = s.pc := rfl

@[simp] theorem busRead_mem (addr : Word) (s : State) :
    (busRead addr s).2.mem = s.mem := rfl

@[simp] theorem busRead_bus (addr : Word) (s : State) :
    (busRead addr s).2.bus = .read addr (busValue addr s) :: s.bus := rfl

@[simp] theorem busRead_signal (addr : Word) (s : State) :
    (busRead addr s).2.signal = s.signal := rfl

@[simp] theorem busRead_config (addr : Word) (s : State) :
    (busRead addr s).2.config = s.config := rfl

/-! ## The state after a bus write -/

@[simp] theorem busWrite_a (addr : Word) (v : Byte) (s : State) :
    (busWrite addr v s).a = s.a := rfl

@[simp] theorem busWrite_b (addr : Word) (v : Byte) (s : State) :
    (busWrite addr v s).b = s.b := rfl

@[simp] theorem busWrite_c (addr : Word) (v : Byte) (s : State) :
    (busWrite addr v s).c = s.c := rfl

@[simp] theorem busWrite_d (addr : Word) (v : Byte) (s : State) :
    (busWrite addr v s).d = s.d := rfl

@[simp] theorem busWrite_e (addr : Word) (v : Byte) (s : State) :
    (busWrite addr v s).e = s.e := rfl

@[simp] theorem busWrite_h (addr : Word) (v : Byte) (s : State) :
    (busWrite addr v s).h = s.h := rfl

@[simp] theorem busWrite_l (addr : Word) (v : Byte) (s : State) :
    (busWrite addr v s).l = s.l := rfl

@[simp] theorem busWrite_f (addr : Word) (v : Byte) (s : State) :
    (busWrite addr v s).f = s.f := rfl

@[simp] theorem busWrite_sp (addr : Word) (v : Byte) (s : State) :
    (busWrite addr v s).sp = s.sp := rfl

@[simp] theorem busWrite_pc (addr : Word) (v : Byte) (s : State) :
    (busWrite addr v s).pc = s.pc := rfl

@[simp] theorem busWrite_mem (addr : Word) (v : Byte) (s : State) :
    (busWrite addr v s).mem = if isExternal s.config addr then s.mem else s.mem.write addr.toNat v := rfl

@[simp] theorem busWrite_bus (addr : Word) (v : Byte) (s : State) :
    (busWrite addr v s).bus = .write addr v :: s.bus := rfl

@[simp] theorem busWrite_signal (addr : Word) (v : Byte) (s : State) :
    (busWrite addr v s).signal = s.signal := rfl

@[simp] theorem busWrite_config (addr : Word) (v : Byte) (s : State) :
    (busWrite addr v s).config = s.config := rfl

end Sys2Proof.Machine
end

