-- ==== Sys2Proof/Laws/Ops.lean ====
section
/-! SUPPORT. One lemma per shared operation: what the bus, the stack and each shape of Machine/Operands.lean answer, said once, so that later
proofs cite it and do not unfold the operation. -/

namespace Sys2Proof.Machine

/-! ## The bus -/

/-- A read of plain RAM gives the cell. -/
theorem busValue_plain {s : State} {addr : Word} (h : isExternal s.config addr = false) :
    busValue addr s = s.mem.read addr.toNat := by
  simp [busValue, h]

/-- A read outside plain RAM gives the collaborator's answer to the history. -/
theorem busValue_external {s : State} {addr : Word} (h : isExternal s.config addr = true) :
    busValue addr s = Config.collaboratorRead s.bus addr := by
  simp [busValue, h]

/-- What a read answers depends on the memory, the history and the configuration only. -/
theorem busValue_congr {s t : State} (hm : s.mem = t.mem) (hb : s.bus = t.bus) (hc : s.config = t.config) (addr : Word) :
    busValue addr s = busValue addr t := by
  simp [busValue, hm, hb, hc]

/-- Everything a bus read does. -/
theorem busRead_eq (addr : Word) (s : State) :
    busRead addr s = (busValue addr s, { s with bus := .read addr (busValue addr s) :: s.bus }) := rfl

/-- A read of plain RAM after a read of anything: reads do not change the cells. -/
theorem busValue_busRead {s : State} {addr : Word} (other : Word) (h : isExternal s.config addr = false) :
    busValue addr (busRead other s).2 = busValue addr s := by
  simp [busValue, h]

/-- The memory after a bus write. -/
theorem busWrite_mem_eq (addr : Word) (v : Byte) (s : State) :
    (busWrite addr v s).mem = if isExternal s.config addr then s.mem else s.mem.write addr.toNat v := rfl

/-- A write to plain RAM keeps the canonical form; so does one outside it. -/
theorem busWrite_wf {s : State} (h : s.mem.wf = true) (addr : Word) (v : Byte) : (busWrite addr v s).mem.wf = true := by
  rw [busWrite_mem_eq]
  split
  · exact h
  · exact Memory.wf_write h addr.isLt v

/-- A read of plain RAM after a write to plain RAM. -/
theorem busValue_busWrite {s : State} (h : s.mem.wf = true) {addr : Word} (v : Byte) {other : Word}
    (ha : isExternal s.config addr = false) (ho : isExternal s.config other = false) :
    busValue other (busWrite addr v s) = if other = addr then v else busValue other s := by
  have heq : other.toNat = addr.toNat ↔ other = addr := (BitVec.toNat_inj (x := other) (y := addr))
  simp [busValue, busWrite, ha, ho, Memory.read_write h, heq]

/-- The word a word read answers, and the two transactions it leaves in the history. -/
theorem busReadWord_eq (addr : Word) (s : State) :
    busReadWord addr s =
      (mkWord (busValue (addr + 1#16) (busRead addr s).2) (busValue addr s),
        (busRead (addr + 1#16) (busRead addr s).2).2) := rfl

/-! ## The stack -/

/-- Everything a push does: `sp` down by two, the high byte above the low byte. -/
theorem push16_eq (w : Word) (s : State) :
    push16 w s =
      busWrite (s.sp - 2#16) (loByte w)
        (busWrite (s.sp - 2#16 + 1#16) (hiByte w) { s with sp := s.sp - 2#16 }) := rfl

@[simp] theorem push16_sp (w : Word) (s : State) : (push16 w s).sp = s.sp - 2#16 := rfl

@[simp] theorem push16_f (w : Word) (s : State) : (push16 w s).f = s.f := rfl

@[simp] theorem push16_pc (w : Word) (s : State) : (push16 w s).pc = s.pc := rfl

@[simp] theorem push16_config (w : Word) (s : State) : (push16 w s).config = s.config := rfl

@[simp] theorem push16_getReg (w : Word) (s : State) (r : Reg8) : (push16 w s).getReg r = s.getReg r := by
  cases r <;> rfl

/-- A push keeps the canonical form. -/
theorem push16_wf {s : State} (h : s.mem.wf = true) (w : Word) : (push16 w s).mem.wf = true :=
  busWrite_wf (busWrite_wf (s := { s with sp := s.sp - 2#16 }) h _ _) _ _

/-- Everything a pop does. -/
theorem pop16_eq (s : State) :
    pop16 s = ((busReadWord s.sp s).1, { (busReadWord s.sp s).2 with sp := s.sp + 2#16 }) := rfl

@[simp] theorem pop16_sp (s : State) : (pop16 s).2.sp = s.sp + 2#16 := rfl

@[simp] theorem pop16_f (s : State) : (pop16 s).2.f = s.f := rfl

@[simp] theorem pop16_mem (s : State) : (pop16 s).2.mem = s.mem := rfl

@[simp] theorem pop16_config (s : State) : (pop16 s).2.config = s.config := rfl

@[simp] theorem pop16_getReg (s : State) (r : Reg8) : (pop16 s).2.getReg r = s.getReg r := by
  cases r <;> rfl

/-! ## Operands -/

/-- What an operand read answers: the register, or the byte at HL. -/
theorem read8_eq (loc : Loc8) (s : State) :
    read8 loc s = match loc with
      | .reg r => (s.getReg r, s)
      | .hlInd => busRead s.hl s := rfl

@[simp] theorem read8_f (loc : Loc8) (s : State) : (read8 loc s).2.f = s.f := by cases loc <;> rfl

@[simp] theorem read8_pc (loc : Loc8) (s : State) : (read8 loc s).2.pc = s.pc := by cases loc <;> rfl

@[simp] theorem read8_mem (loc : Loc8) (s : State) : (read8 loc s).2.mem = s.mem := by cases loc <;> rfl

@[simp] theorem read8_config (loc : Loc8) (s : State) : (read8 loc s).2.config = s.config := by cases loc <;> rfl

@[simp] theorem read8_getReg (loc : Loc8) (s : State) (r : Reg8) : (read8 loc s).2.getReg r = s.getReg r := by
  cases loc <;> cases r <;> rfl

/-- An operand write keeps the canonical form. -/
theorem write8_wf {s : State} (h : s.mem.wf = true) (loc : Loc8) (v : Byte) : (write8 loc v s).mem.wf = true := by
  cases loc with
  | reg r => cases r <;> exact h
  | hlInd => exact busWrite_wf h _ _

/-! ## The shapes: each answers a next state, and this one -/

theorem accumulate_eq (op : Byte → Byte → Result8) (src : Loc8) (s : State) :
    accumulate op src s =
      .next ((((read8 src s).2.setReg .a (op s.a (read8 src s).1).value).setFlags (op s.a (read8 src s).1).flags).commit
        ((read8 src s).2.pc + 1#16) .none) := rfl

theorem accumulateImm_eq (op : Byte → Byte → Result8) (n : Byte) (s : State) :
    accumulateImm op n s =
      .next (((s.setReg .a (op s.a n).value).setFlags (op s.a n).flags).commit (s.pc + 2#16) .none) := rfl

theorem compareA_eq (src : Loc8) (s : State) :
    compareA src s =
      .next (((read8 src s).2.setFlags (sub8 s.a (read8 src s).1 false).flags).commit ((read8 src s).2.pc + 1#16) .none) := rfl

theorem modify8_eq (op : Byte → Result8) (loc : Loc8) (len : Word) (s : State) :
    modify8 op loc len s =
      .next (((write8 loc (op (read8 loc s).1).value (read8 loc s).2).setFlags (op (read8 loc s).1).flags).commit
        (s.pc + len) .none) := rfl

theorem modifyBits_eq (op : Byte → Byte) (loc : Loc8) (s : State) :
    modifyBits op loc s =
      .next ((write8 loc (op (read8 loc s).1) (read8 loc s).2).commit (s.pc + 2#16) .none) := rfl

theorem testBit_eq (b : BitVec 3) (loc : Loc8) (s : State) :
    testBit b loc s =
      .next (((read8 loc s).2.setFlags (bit8 s.f b (read8 loc s).1)).commit ((read8 loc s).2.pc + 2#16) .none) := rfl

theorem loadFrom_eq (r : Reg8) (addr len : Word) (s : State) :
    loadFrom r addr len s =
      .next (((busRead addr s).2.setReg r (busValue addr s)).commit (s.pc + len) .none) := rfl

theorem storeTo_eq (addr : Word) (v : Byte) (len : Word) (s : State) :
    storeTo addr v len s = .next ((busWrite addr v s).commit (s.pc + len) .none) := rfl

theorem returnWith_eq (signal : Signal) (s : State) :
    returnWith signal s = .next ((pop16 s).2.commit (pop16 s).1 signal) := rfl

theorem callTo_eq (target returnAddr : Word) (s : State) :
    callTo target returnAddr s = .next ((push16 returnAddr s).commit target .none) := rfl

end Sys2Proof.Machine
end

