-- ==== Sys2Proof/Laws/Step.lean ====
section
/-! SUPPORT. What a step can do, said once. Every meaning, and so every step that answers a next state, is a sequence of bus reads, bus writes and
updates of the core's own fields (`Reaches`); an invariant that these three keep is kept by every step (`step_keeps`). -/

namespace Sys2Proof.Machine

/-- `t` comes from `s` by bus reads, bus writes and updates that leave memory, history and configuration alone. -/
inductive Reaches (s : State) : State → Prop where
  | start : Reaches s s
  | read {t : State} (addr : Word) (h : Reaches s t) : Reaches s (busRead addr t).2
  | write {t : State} (addr : Word) (v : Byte) (h : Reaches s t) : Reaches s (busWrite addr v t)
  | core {t u : State} (h : Reaches s t) (hm : u.mem = t.mem) (hb : u.bus = t.bus) (hc : u.config = t.config) : Reaches s u

theorem Reaches.trans {s t u : State} (h : Reaches s t) (k : Reaches t u) : Reaches s u := by
  induction k with
  | start => exact h
  | read addr _ ih => exact ih.read addr
  | write addr v _ ih => exact ih.write addr v
  | core _ hm hb hc ih => exact ih.core hm hb hc

/-- The configuration is written by nothing. -/
theorem Reaches.config_eq {s t : State} (h : Reaches s t) : t.config = s.config := by
  induction h with
  | start => rfl
  | read addr _ ih => exact ih
  | write addr v _ ih => exact ih
  | core _ _ _ hc ih => exact hc.trans ih

/-- The induction, packaged: what reads, writes and core updates keep. -/
theorem Reaches.keeps {Inv : State → Prop} {s t : State} (h : Reaches s t) (hs : Inv s)
    (onRead : ∀ addr u, Inv u → Inv (busRead addr u).2) (onWrite : ∀ addr v u, Inv u → Inv (busWrite addr v u))
    (onCore : ∀ u w : State, Inv u → w.mem = u.mem → w.bus = u.bus → w.config = u.config → Inv w) : Inv t := by
  induction h with
  | start => exact hs
  | read addr _ ih => exact onRead addr _ ih
  | write addr v _ ih => exact onWrite addr v _ ih
  | core _ hm hb hc ih => exact onCore _ _ ih hm hb hc

/-! ## The building blocks -/

theorem Reaches.setReg {s t : State} (h : Reaches s t) (r : Reg8) (v : Byte) : Reaches s (t.setReg r v) :=
  h.core (by cases r <;> rfl) (by cases r <;> rfl) (by cases r <;> rfl)

theorem Reaches.setPair {s t : State} (h : Reaches s t) (q : Pair) (w : Word) : Reaches s (t.setPair q w) :=
  h.core (by cases q <;> rfl) (by cases q <;> rfl) (by cases q <;> rfl)

theorem Reaches.setRR {s t : State} (h : Reaches s t) (p : RR) (w : Word) : Reaches s (t.setRR p w) :=
  h.core (by cases p <;> rfl) (by cases p <;> rfl) (by cases p <;> rfl)

theorem Reaches.setFlags {s t : State} (h : Reaches s t) (f : Flags) : Reaches s (t.setFlags f) := h.core rfl rfl rfl

theorem Reaches.commit {s t : State} (h : Reaches s t) (w : Word) (g : Signal) : Reaches s (t.commit w g) := h.core rfl rfl rfl

theorem Reaches.read8 {s t : State} (h : Reaches s t) (loc : Loc8) : Reaches s (Machine.read8 loc t).2 := by
  cases loc with
  | reg r => exact h
  | hlInd => exact h.read t.hl

theorem Reaches.write8 {s t : State} (h : Reaches s t) (loc : Loc8) (v : Byte) : Reaches s (Machine.write8 loc v t) := by
  cases loc with
  | reg r => exact h.setReg r v
  | hlInd => exact h.write t.hl v

theorem Reaches.push {s t : State} (h : Reaches s t) (w : Word) : Reaches s (push16 w t) :=
  ((h.core (u := { t with sp := t.sp - 2#16 }) rfl rfl rfl).write (t.sp - 2#16 + 1#16) (hiByte w)).write (t.sp - 2#16) (loByte w)

theorem Reaches.pop {s t : State} (h : Reaches s t) : Reaches s (pop16 t).2 :=
  ((h.read t.sp).read (t.sp + 1#16)).core rfl rfl rfl

/-! ## The meanings -/

/-- An answer that is either the one fault or a next state that `s` reaches. -/
def Answers (s : State) : Answer → Prop
  | .next t => Reaches s t
  | .fault _ => True
  | .refused _ => False

theorem answers_accumulate (op : Byte → Byte → Result8) (src : Loc8) (s : State) : Answers s (accumulate op src s) :=
  (((Reaches.start.read8 src).setReg _ _).setFlags _).commit _ _

theorem answers_accumulateImm (op : Byte → Byte → Result8) (n : Byte) (s : State) : Answers s (accumulateImm op n s) :=
  ((Reaches.start.setReg _ _).setFlags _).commit _ _

theorem answers_intoA (r : Result8) (len : Word) (s : State) : Answers s (intoA r len s) :=
  ((Reaches.start.setReg _ _).setFlags _).commit _ _

theorem answers_onlyFlags (f : Flags) (len : Word) (s : State) : Answers s (onlyFlags f len s) :=
  (Reaches.start.setFlags _).commit _ _

theorem answers_compareA (src : Loc8) (s : State) : Answers s (compareA src s) :=
  ((Reaches.start.read8 src).setFlags _).commit _ _

theorem answers_modify8 (op : Byte → Result8) (loc : Loc8) (len : Word) (s : State) : Answers s (modify8 op loc len s) :=
  (((Reaches.start.read8 loc).write8 loc _).setFlags _).commit _ _

theorem answers_modifyBits (op : Byte → Byte) (loc : Loc8) (s : State) : Answers s (modifyBits op loc s) :=
  ((Reaches.start.read8 loc).write8 loc _).commit _ _

theorem answers_testBit (b : BitVec 3) (loc : Loc8) (s : State) : Answers s (testBit b loc s) :=
  ((Reaches.start.read8 loc).setFlags _).commit _ _

theorem answers_intoRR (p : RR) (r : Result16) (len : Word) (s : State) : Answers s (intoRR p r len s) :=
  ((Reaches.start.setRR p _).setFlags _).commit _ _

theorem answers_loadValue (r : Reg8) (v : Byte) (len : Word) (s : State) : Answers s (loadValue r v len s) :=
  (Reaches.start.setReg r v).commit _ _

theorem answers_loadFrom (r : Reg8) (addr len : Word) (s : State) : Answers s (loadFrom r addr len s) :=
  ((Reaches.start.read addr).setReg r _).commit _ _

theorem answers_storeTo (addr : Word) (v : Byte) (len : Word) (s : State) : Answers s (storeTo addr v len s) :=
  (Reaches.start.write addr v).commit _ _

theorem answers_storeAThenHl (w : Word) (s : State) : Answers s (storeAThenHl w s) :=
  ((Reaches.start.write s.hl s.a).setPair .hl w).commit _ _

theorem answers_loadAThenHl (w : Word) (s : State) : Answers s (loadAThenHl w s) :=
  (((Reaches.start.read s.hl).setReg .a _).setPair .hl w).commit _ _

theorem answers_jumpTo (target : Word) (s : State) : Answers s (jumpTo target s) := Reaches.start.commit _ _

theorem answers_callTo (target back : Word) (s : State) : Answers s (callTo target back s) := (Reaches.start.push back).commit _ _

theorem answers_returnWith (g : Signal) (s : State) : Answers s (returnWith g s) := Reaches.start.pop.commit _ _

theorem answers_advance (len : Word) (g : Signal) (s : State) : Answers s (advance len g s) := Reaches.start.commit _ _

theorem answers_ite {s : State} (c : Bool) {x y : Answer} (hx : Answers s x) (hy : Answers s y) :
    Answers s (if c then x else y) := by
  cases c
  · exact hy
  · exact hx

theorem answers_trans {s t : State} (h : Reaches s t) {x : Answer} (hx : Answers t x) : Answers s x := by
  cases x with
  | next u => exact h.trans hx
  | fault f => trivial
  | refused r => exact hx

theorem answers_regOrHl {s : State} (k : BitVec 3) {reg : Reg8 → State → Answer} {hl : State → Answer}
    (hr : ∀ r, Answers s (reg r s)) (hh : Answers s (hl s)) : Answers s (execRegOrHl k reg hl s) := by
  unfold execRegOrHl
  split
  · exact hr _
  · exact hh

theorem answers_prefixedEntry (op : Byte) (s : State) : Answers s (execPrefixedEntry op s) := by
  unfold execPrefixedEntry
  split
  · unfold execPrefixedRotate
    split <;> exact answers_regOrHl _ (fun r => answers_modify8 _ _ _ _) (answers_modify8 _ _ _ _)
  · exact answers_regOrHl _ (fun r => answers_testBit _ _ _) (answers_testBit _ _ _)
  · exact answers_regOrHl _ (fun r => answers_modifyBits _ _ _) (answers_modifyBits _ _ _)
  · exact answers_regOrHl _ (fun r => answers_modifyBits _ _ _) (answers_modifyBits _ _ _)

/-- The meaning of an instruction answers the fault or a state that the given one reaches, never a refusal. -/
theorem exec_answers (i : Instr) (s : State) : Answers s (exec i s) := by
  cases i
  case addAR | addAHl | adcAR | adcAHl | subR | subHl | sbcAR | sbcAHl | andR | andHl | xorR | xorHl | orR
      | orHl =>
    simp only [exec, execAddAR, execAddAHl, execAdcAR, execAdcAHl, execSubR, execSubHl, execSbcAR, execSbcAHl, execAndR,
      execAndHl, execXorR, execXorHl, execOrR, execOrHl]
    exact answers_accumulate _ _ _
  case addAN | adcAN | subN | sbcAN | andN | xorN | orN =>
    simp only [exec, execAddAN, execAdcAN, execSubN, execSbcAN, execAndN, execXorN, execOrN]
    exact answers_accumulateImm _ _ _
  case cpR | cpHl =>
    simp only [exec, execCpR, execCpHl]
    exact answers_compareA _ _
  case cpN | scf | ccf =>
    simp only [exec, execCpN, execScf, execCcf]
    exact answers_onlyFlags _ _ _
  case daa | cpl =>
    simp only [exec, execDaa, execCpl]
    exact answers_intoA _ _ _
  case incR | incHl | decR | decHl | rlca | rrca | rla | rra | rlcR | rlcHl | rrcR | rrcHl | rlR | rlHl |
      rrR | rrHl | slaR | slaHl | sraR | sraHl | swapR | swapHl | srlR | srlHl =>
    simp only [exec, execIncR, execIncHl, execDecR, execDecHl, execRlca, execRrca, execRla, execRra, execRlcR, execRlcHl,
      execRrcR, execRrcHl, execRlR, execRlHl, execRrR, execRrHl, execSlaR, execSlaHl, execSraR, execSraHl,
      execSwapR, execSwapHl, execSrlR, execSrlHl]
    exact answers_modify8 _ _ _ _
  case bitR | bitHl =>
    simp only [exec, execBitR, execBitHl]
    exact answers_testBit _ _ _
  case resR | resHl | setR | setHl =>
    simp only [exec, execResR, execResHl, execSetR, execSetHl]
    exact answers_modifyBits _ _ _
  case incRR | decRR | addHlRR | addSpE | ldHlSpE =>
    simp only [exec, execIncRR, execDecRR, execAddHlRR, execAddSpE, execLdHlSpE]
    exact answers_intoRR _ _ _ _
  case ldReg | ldRegN =>
    simp only [exec, execLdReg, execLdRegN]
    exact answers_loadValue _ _ _ _
  case ldRegHl | ldABc | ldADe | ldANn | ldhAN | ldAC =>
    simp only [exec, execLdRegHl, execLdABc, execLdADe, execLdANn, execLdhAN, execLdAC]
    exact answers_loadFrom _ _ _ _
  case ldHlReg | ldHlN | ldBcA | ldDeA | ldNnA | ldhNA | ldCA =>
    simp only [exec, execLdHlReg, execLdHlN, execLdBcA, execLdDeA, execLdNnA, execLdhNA, execLdCA]
    exact answers_storeTo _ _ _ _
  case ldHlIncA | ldHlDecA =>
    simp only [exec, execLdHlIncA, execLdHlDecA]
    exact answers_storeAThenHl _ _
  case ldAHlInc | ldAHlDec =>
    simp only [exec, execLdAHlInc, execLdAHlDec]
    exact answers_loadAThenHl _ _
  case ldRRNn =>
    simp only [exec, execLdRRNn]
    exact (Reaches.start.setRR _ _).commit _ _
  case ldNnSp =>
    simp only [exec, execLdNnSp]
    exact ((Reaches.start.write _ _).write _ _).commit _ _
  case ldSpHl =>
    simp only [exec, execLdSpHl]
    exact (Reaches.start.setRR .sp _).commit _ _
  case pushPair | pushAf =>
    simp only [exec, execPushPair, execPushAf]
    exact (Reaches.start.push _).commit _ _
  case popPair =>
    simp only [exec, execPopPair]
    exact (Reaches.start.pop.setPair _ _).commit _ _
  case popAf =>
    simp only [exec, execPopAf]
    exact ((Reaches.start.pop.setReg .a _).setFlags _).commit _ _
  case jpNn | jpHl | jrE =>
    simp only [exec, execJpNn, execJpHl, execJrE]
    exact answers_jumpTo _ _
  case jpCcNn | jrCcE =>
    simp only [exec, execJpCcNn, execJrCcE]
    exact answers_ite _ (answers_jumpTo _ _) (answers_jumpTo _ _)
  case callNn | rst =>
    simp only [exec, execCallNn, execRst]
    exact answers_callTo _ _ _
  case callCcNn =>
    simp only [exec, execCallCcNn]
    exact answers_ite _ (answers_callTo _ _ _) (answers_jumpTo _ _)
  case ret | reti =>
    simp only [exec, execRet, execReti]
    exact answers_returnWith _ _
  case retCc =>
    simp only [exec, execRetCc]
    exact answers_ite _ (answers_returnWith _ _) (answers_jumpTo _ _)
  case nop | halt | stop | di | ei =>
    simp only [exec, execNop, execHalt, execStop, execDi, execEi]
    exact answers_advance _ _ _
  case prefixCb =>
    simp only [exec, execPrefixCb]
    exact answers_trans (Reaches.start.read _) (answers_prefixedEntry _ _)
  all_goals trivial

/-- The fetch is one to three bus reads. -/
theorem fetch_reaches (s : State) : Reaches s (fetch s).2 := by
  unfold fetch
  dsimp only
  split
  · exact Reaches.start.read _
  · exact (Reaches.start.read _).read _
  · exact ((Reaches.start.read _).read _).read _
  · exact (Reaches.start.read _).read _
  · exact Reaches.start.read _

theorem step_answers (s : State) : Answers s (step s) := answers_trans (fetch_reaches s) (exec_answers _ _)

/-- A step that answers a next state is a sequence of reads, writes and core updates. -/
theorem step_reaches {s t : State} (h : step s = .next t) : Reaches s t := by
  have := step_answers s
  rwa [h] at this

/-- An invariant of reads, writes and core updates is an invariant of the step. -/
theorem step_keeps {Inv : State → Prop} {s t : State} (h : step s = .next t) (hs : Inv s)
    (onRead : ∀ addr u, Inv u → Inv (busRead addr u).2) (onWrite : ∀ addr v u, Inv u → Inv (busWrite addr v u))
    (onCore : ∀ u w : State, Inv u → w.mem = u.mem → w.bus = u.bus → w.config = u.config → Inv w) : Inv t :=
  (step_reaches h).keeps hs onRead onWrite onCore

/-! ## The prefix row -/

/-- Executing what the codes of a register operand select is executing the row they select. -/
theorem execRegOrHl_eq {k : BitVec 3} {reg : Reg8 → State → Answer} {hl : State → Answer} {regRow : Reg8 → Instr} {hlRow : Instr}
    (s : State) (hr : ∀ r, reg r s = exec (regRow r) s) (hh : hl s = exec hlRow s) :
    execRegOrHl k reg hl s = exec (regOrHl k regRow hlRow) s := by
  unfold execRegOrHl regOrHl
  cases Reg8.ofCode k with
  | some r => exact hr r
  | none => exact hh

/-- The values of the field `x` of an opcode. -/
theorem two_bits (x : BitVec 2) : x = 0#2 ∨ x = 1#2 ∨ x = 2#2 ∨ x = 3#2 := by
  revert x
  decide

/-- The values of the fields `y` and `z` of an opcode. -/
theorem three_bits (y : BitVec 3) :
    y = 0#3 ∨ y = 1#3 ∨ y = 2#3 ∨ y = 3#3 ∨ y = 4#3 ∨ y = 5#3 ∨ y = 6#3 ∨ y = 7#3 := by
  revert y
  decide

/-- The rotates and shifts: executing what the code selects is executing the row it selects. -/
theorem execPrefixedRotate_eq (y z : BitVec 3) (s : State) : execPrefixedRotate y z s = exec (prefixedRotate y z) s := by
  rcases three_bits y with h | h | h | h | h | h | h | h <;> subst h <;> exact execRegOrHl_eq s (fun _ => rfl) rfl

/-- Executing the entry of the prefixed table for a byte is executing the instruction the table holds there. -/
theorem execPrefixedEntry_eq (op : Byte) (s : State) : execPrefixedEntry op s = exec (prefixedTable op) s := by
  unfold execPrefixedEntry prefixedTable
  rcases two_bits (fieldX op) with h | h | h | h <;> rw [h]
  · exact execPrefixedRotate_eq _ _ s
  · exact execRegOrHl_eq s (fun _ => rfl) rfl
  · exact execRegOrHl_eq s (fun _ => rfl) rfl
  · exact execRegOrHl_eq s (fun _ => rfl) rfl

end Sys2Proof.Machine
end

