-- ==== Sys2Proof/Tests/Slice0.lean ====
section
/-! SUPPORT. The model's own tests. Expected values come from the spec: the encodings of 30_encoding.md section 6.3 for the decode tests and
the vectors of 95_test_vectors.md for the step tests, each named with its test. The witnesses at the end show, for every statement
of Obligations.lean that has hypotheses, a state and operands that meet them. -/

namespace Sys2Proof.Tests

open Sys2Proof.Machine

/-! ## Well-formedness refuses each ill-formed term -/

theorem test_wellFormed_refuses_the_prefix_row : Instr.wellFormed .prefixCb = false := by decide

theorem test_wellFormed_refuses_the_illegal_rows :
    [Instr.illegalD3, .illegalDB, .illegalDD, .illegalE3, .illegalE4, .illegalEB, .illegalEC, .illegalED, .illegalF4, .illegalFC,
      .illegalFD].all (fun i => !i.wellFormed) = true := by decide

theorem test_wellFormed_accepts_an_instruction : Instr.wellFormed (.ldReg .b .c) = true := by decide

/-! ## Decoding: a word for every row, written out from its encoding -/

/-- The bytes are exactly the instruction. -/
def decodes (bytes : List Byte) (i : Instr) : Bool :=
  match decode bytes with
  | .ok (j, rest) => decide (j = i) && rest.isEmpty
  | .error _ => false

/-- 41_alu8.md, ADD and ADC. -/
theorem test_decode_add_adc :
    (decodes [0b10000100#8] (.addAR .h) &&
      decodes [0b10000110#8] .addAHl &&
      decodes [0b11000110#8, 0xA5#8] (.addAN 0xA5#8) &&
      decodes [0b10001100#8] (.adcAR .h) &&
      decodes [0b10001110#8] .adcAHl &&
      decodes [0b11001110#8, 0xA5#8] (.adcAN 0xA5#8)) = true := by decide

/-- 41_alu8.md, SUB and SBC. -/
theorem test_decode_sub_sbc :
    (decodes [0b10010100#8] (.subR .h) &&
      decodes [0b10010110#8] .subHl &&
      decodes [0b11010110#8, 0xA5#8] (.subN 0xA5#8) &&
      decodes [0b10011100#8] (.sbcAR .h) &&
      decodes [0b10011110#8] .sbcAHl &&
      decodes [0b11011110#8, 0xA5#8] (.sbcAN 0xA5#8)) = true := by decide

/-- 41_alu8.md, AND, XOR, OR and CP. -/
theorem test_decode_logic :
    (decodes [0b10100100#8] (.andR .h) &&
      decodes [0b10100110#8] .andHl &&
      decodes [0b11100110#8, 0xA5#8] (.andN 0xA5#8) &&
      decodes [0b10101100#8] (.xorR .h) &&
      decodes [0b10101110#8] .xorHl &&
      decodes [0b11101110#8, 0xA5#8] (.xorN 0xA5#8) &&
      decodes [0b10110100#8] (.orR .h) &&
      decodes [0b10110110#8] .orHl &&
      decodes [0b11110110#8, 0xA5#8] (.orN 0xA5#8) &&
      decodes [0b10111100#8] (.cpR .h) &&
      decodes [0b10111110#8] .cpHl &&
      decodes [0b11111110#8, 0xA5#8] (.cpN 0xA5#8)) = true := by decide

/-- 41_alu8.md, INC and DEC. -/
theorem test_decode_steps :
    (decodes [0b00100100#8] (.incR .h) &&
      decodes [0b00110100#8] .incHl &&
      decodes [0b00100101#8] (.decR .h) &&
      decodes [0b00110101#8] .decHl) = true := by decide

/-- 42_alu16.md. -/
theorem test_decode_alu16 :
    (decodes [0b00100011#8] (.incRR .hl) &&
      decodes [0b00101011#8] (.decRR .hl) &&
      decodes [0b00101001#8] (.addHlRR .hl) &&
      decodes [0b11101000#8, 0xA5#8] (.addSpE 0xA5#8) &&
      decodes [0b11111000#8, 0xA5#8] (.ldHlSpE 0xA5#8)) = true := by decide

/-- 43_rotate_shift_bit.md, the rotates. -/
theorem test_decode_rotates :
    (decodes [0b00000111#8] .rlca &&
      decodes [0b00001111#8] .rrca &&
      decodes [0b00010111#8] .rla &&
      decodes [0b00011111#8] .rra &&
      decodes [0b11001011#8, 0b00000100#8] (.rlcR .h) &&
      decodes [0b11001011#8, 0b00000110#8] .rlcHl &&
      decodes [0b11001011#8, 0b00001100#8] (.rrcR .h) &&
      decodes [0b11001011#8, 0b00001110#8] .rrcHl &&
      decodes [0b11001011#8, 0b00010100#8] (.rlR .h) &&
      decodes [0b11001011#8, 0b00010110#8] .rlHl &&
      decodes [0b11001011#8, 0b00011100#8] (.rrR .h) &&
      decodes [0b11001011#8, 0b00011110#8] .rrHl) = true := by decide

/-- 43_rotate_shift_bit.md, the shifts and SWAP. -/
theorem test_decode_shifts :
    (decodes [0b11001011#8, 0b00100100#8] (.slaR .h) &&
      decodes [0b11001011#8, 0b00100110#8] .slaHl &&
      decodes [0b11001011#8, 0b00101100#8] (.sraR .h) &&
      decodes [0b11001011#8, 0b00101110#8] .sraHl &&
      decodes [0b11001011#8, 0b00110100#8] (.swapR .h) &&
      decodes [0b11001011#8, 0b00110110#8] .swapHl &&
      decodes [0b11001011#8, 0b00111100#8] (.srlR .h) &&
      decodes [0b11001011#8, 0b00111110#8] .srlHl) = true := by decide

/-- 43_rotate_shift_bit.md, BIT, RES and SET. -/
theorem test_decode_bits :
    (decodes [0b11001011#8, 0b01101010#8] (.bitR 5#3 .d) &&
      decodes [0b11001011#8, 0b01101110#8] (.bitHl 5#3) &&
      decodes [0b11001011#8, 0b10101010#8] (.resR 5#3 .d) &&
      decodes [0b11001011#8, 0b10101110#8] (.resHl 5#3) &&
      decodes [0b11001011#8, 0b11101010#8] (.setR 5#3 .d) &&
      decodes [0b11001011#8, 0b11101110#8] (.setHl 5#3)) = true := by decide

/-- 44_misc_alu.md. -/
theorem test_decode_adjust :
    (decodes [0b00100111#8] .daa &&
      decodes [0b00101111#8] .cpl &&
      decodes [0b00110111#8] .scf &&
      decodes [0b00111111#8] .ccf) = true := by decide

/-- 45_loads8.md, the register and HL forms. -/
theorem test_decode_loads8 :
    (decodes [0b01100100#8] (.ldReg .h .h) &&
      decodes [0b00100110#8, 0xA5#8] (.ldRegN .h 0xA5#8) &&
      decodes [0b01100110#8] (.ldRegHl .h) &&
      decodes [0b01110100#8] (.ldHlReg .h) &&
      decodes [0b00110110#8, 0xA5#8] (.ldHlN 0xA5#8)) = true := by decide

/-- 45_loads8.md, the forms of A. -/
theorem test_decode_loadsA :
    (decodes [0b00001010#8] .ldABc &&
      decodes [0b00011010#8] .ldADe &&
      decodes [0b00000010#8] .ldBcA &&
      decodes [0b00010010#8] .ldDeA &&
      decodes [0b11111010#8, 0xA5#8, 0x12#8] (.ldANn 0x12A5#16) &&
      decodes [0b11101010#8, 0xA5#8, 0x12#8] (.ldNnA 0x12A5#16) &&
      decodes [0b11110000#8, 0xA5#8] (.ldhAN 0xA5#8) &&
      decodes [0b11100000#8, 0xA5#8] (.ldhNA 0xA5#8) &&
      decodes [0b11110010#8] .ldAC &&
      decodes [0b11100010#8] .ldCA &&
      decodes [0b00100010#8] .ldHlIncA &&
      decodes [0b00101010#8] .ldAHlInc &&
      decodes [0b00110010#8] .ldHlDecA &&
      decodes [0b00111010#8] .ldAHlDec) = true := by decide

/-- 46_loads16_stack.md. -/
theorem test_decode_loads16 :
    (decodes [0b00100001#8, 0xA5#8, 0x12#8] (.ldRRNn .hl 0x12A5#16) &&
      decodes [0b00001000#8, 0xA5#8, 0x12#8] (.ldNnSp 0x12A5#16) &&
      decodes [0b11111001#8] .ldSpHl &&
      decodes [0b11100101#8] (.pushPair .hl) &&
      decodes [0b11110101#8] .pushAf &&
      decodes [0b11100001#8] (.popPair .hl) &&
      decodes [0b11110001#8] .popAf) = true := by decide

/-- 47_control_flow.md. -/
theorem test_decode_control :
    (decodes [0b11000011#8, 0xA5#8, 0x12#8] (.jpNn 0x12A5#16) &&
      decodes [0b11010010#8, 0xA5#8, 0x12#8] (.jpCcNn .nc 0x12A5#16) &&
      decodes [0b11101001#8] .jpHl &&
      decodes [0b00011000#8, 0xA5#8] (.jrE 0xA5#8) &&
      decodes [0b00110000#8, 0xA5#8] (.jrCcE .nc 0xA5#8) &&
      decodes [0b11001101#8, 0xA5#8, 0x12#8] (.callNn 0x12A5#16) &&
      decodes [0b11010100#8, 0xA5#8, 0x12#8] (.callCcNn .nc 0x12A5#16) &&
      decodes [0b11001001#8] .ret &&
      decodes [0b11010000#8] (.retCc .nc) &&
      decodes [0b11011001#8] .reti &&
      decodes [0b11101111#8] (.rst 5#3)) = true := by decide

/-- 48_system.md. -/
theorem test_decode_system :
    (decodes [0b00000000#8] .nop &&
      decodes [0b01110110#8] .halt &&
      decodes [0b00010000#8] .stop &&
      decodes [0b11110011#8] .di &&
      decodes [0b11111011#8] .ei &&
      decodes [0b11001011#8] .prefixCb) = true := by decide

/-- 30_encoding.md R74, 48_system.md R246. -/
theorem test_decode_illegal :
    (decodes [0b11010011#8] .illegalD3 &&
      decodes [0b11011011#8] .illegalDB &&
      decodes [0b11011101#8] .illegalDD &&
      decodes [0b11100011#8] .illegalE3 &&
      decodes [0b11100100#8] .illegalE4 &&
      decodes [0b11101011#8] .illegalEB &&
      decodes [0b11101100#8] .illegalEC &&
      decodes [0b11101101#8] .illegalED &&
      decodes [0b11110100#8] .illegalF4 &&
      decodes [0b11111100#8] .illegalFC &&
      decodes [0b11111101#8] .illegalFD) = true := by decide

/-- 20_memory.md R46: a list that ends inside an instruction is refused by name. -/
theorem test_decode_refuses_short_lists :
    (match decode [] with | .error .noOpcode => true | _ => false) = true ∧
      (match decode [0xC3#8, 0x00#8] with | .error .noImmediate => true | _ => false) = true := by decide

/-! ## One step of each row -/

/-- The state of the vectors of 95_test_vectors.md: `pc` 0x0100, everything else zero. -/
def start : State := { State.reset with pc := 0x0100#16 }

/-- A state with an instruction's bytes placed at `pc`. -/
def placed (bytes : List Byte) (s : State) : State := { s with mem := placeBytes s.pc bytes s.mem }

/-- The step answers a next state, and it is as expected. -/
def ends (s : State) (p : State → Bool) : Bool :=
  match step s with
  | .next t => p t
  | _ => false

/-- `ADD A,B`: 95_test_vectors.md V41.1. -/
theorem test_step_addAR :
    ends (placed [0x80#8] { start with a := 0x3A#8, b := 0xC6#8 })
      (fun t => t.a == 0x00#8 && t.pc == 0x0101#16 && t.f == ⟨true, false, true, true⟩ && t.bus.length == 1) = true := by decide

/-- `ADD A,(HL)`: 95_test_vectors.md V41.3. -/
theorem test_step_addAHl :
    ends (placed [0x86#8] { start with a := 0x3C#8, h := 0xC0#8, mem := [(0xC000, 0x12#8)] })
      (fun t => t.a == 0x4E#8 && t.pc == 0x0101#16 && t.f == ⟨false, false, false, false⟩ && t.bus.length == 2) = true := by
        decide

/-- `ADD A,n`: 95_test_vectors.md V41.4. -/
theorem test_step_addAN :
    ends (placed [0xC6#8, 0xFF#8] { start with a := 0x3C#8 })
      (fun t => t.a == 0x3B#8 && t.pc == 0x0102#16 && t.f == ⟨false, false, true, true⟩ && t.bus.length == 2) = true := by decide

/-- `ADC A,E`: 95_test_vectors.md V41.5. -/
theorem test_step_adcAR :
    ends (placed [0x8B#8] { start with a := 0xE1#8, e := 0x0F#8, f := ⟨false, false, false, true⟩ })
      (fun t => t.a == 0xF1#8 && t.pc == 0x0101#16 && t.f == ⟨false, false, true, false⟩ && t.bus.length == 1) = true := by decide

/-- `ADC A,(HL)`: 95_test_vectors.md V41.7. -/
theorem test_step_adcAHl :
    ends (placed [0x8E#8] { start with a := 0xE1#8, h := 0xC0#8, f := ⟨false, false, false, true⟩, mem := [(0xC000, 0x1E#8)] })
      (fun t => t.a == 0x00#8 && t.pc == 0x0101#16 && t.f == ⟨true, false, true, true⟩ && t.bus.length == 2) = true := by decide

/-- `ADC A,n`: 95_test_vectors.md V41.6. -/
theorem test_step_adcAN :
    ends (placed [0xCE#8, 0xFF#8] { start with f := ⟨false, false, false, true⟩ })
      (fun t => t.pc == 0x0102#16 && t.f == ⟨true, false, true, true⟩ && t.bus.length == 2) = true := by decide

/-- `SUB E`: 95_test_vectors.md V41.8. -/
theorem test_step_subR :
    ends (placed [0x93#8] { start with a := 0x3E#8, e := 0x3E#8 })
      (fun t => t.a == 0x00#8 && t.pc == 0x0101#16 && t.f == ⟨true, true, false, false⟩ && t.bus.length == 1) = true := by decide

/-- `SUB (HL)`: 95_test_vectors.md V41.10. -/
theorem test_step_subHl :
    ends (placed [0x96#8] { start with a := 0x3E#8, h := 0xC0#8, mem := [(0xC000, 0x40#8)] })
      (fun t => t.a == 0xFE#8 && t.pc == 0x0101#16 && t.f == ⟨false, true, false, true⟩ && t.bus.length == 2) = true := by decide

/-- `SUB n`: 95_test_vectors.md V41.9. -/
theorem test_step_subN :
    ends (placed [0xD6#8, 0x0F#8] { start with a := 0x3E#8 })
      (fun t => t.a == 0x2F#8 && t.pc == 0x0102#16 && t.f == ⟨false, true, true, false⟩ && t.bus.length == 2) = true := by decide

/-- `SBC A,H`: 95_test_vectors.md V41.11. -/
theorem test_step_sbcAR :
    ends (placed [0x9C#8] { start with a := 0x3B#8, h := 0x2A#8, f := ⟨false, false, false, true⟩ })
      (fun t => t.a == 0x10#8 && t.pc == 0x0101#16 && t.f == ⟨false, true, false, false⟩ && t.bus.length == 1) = true := by decide

/-- `SBC A,(HL)`: 95_test_vectors.md V41.14. -/
theorem test_step_sbcAHl :
    ends (placed [0x9E#8] { start with a := 0x3B#8, h := 0xC0#8, f := ⟨false, false, false, true⟩, mem := [(0xC000, 0x4F#8)] })
      (fun t => t.a == 0xEB#8 && t.pc == 0x0101#16 && t.f == ⟨false, true, true, true⟩ && t.bus.length == 2) = true := by decide

/-- `SBC A,n`: 95_test_vectors.md V41.12. -/
theorem test_step_sbcAN :
    ends (placed [0xDE#8, 0x3A#8] { start with a := 0x3B#8, f := ⟨false, false, false, true⟩ })
      (fun t => t.a == 0x00#8 && t.pc == 0x0102#16 && t.f == ⟨true, true, false, false⟩ && t.bus.length == 2) = true := by decide

/-- `AND L`: 95_test_vectors.md V41.15. -/
theorem test_step_andR :
    ends (placed [0xA5#8] { start with a := 0x5A#8, l := 0x3F#8, f := ⟨false, true, true, true⟩ })
      (fun t => t.a == 0x1A#8 && t.pc == 0x0101#16 && t.f == ⟨false, false, false, false⟩ && t.bus.length == 1) = true := by
        decide

/-- `AND (HL)`: 95_test_vectors.md V41.17. -/
theorem test_step_andHl :
    ends (placed [0xA6#8] { start with a := 0x5A#8, h := 0xC0#8 })
      (fun t => t.a == 0x00#8 && t.pc == 0x0101#16 && t.f == ⟨true, false, false, false⟩ && t.bus.length == 2) = true := by decide

/-- `AND n`: 95_test_vectors.md V41.16. -/
theorem test_step_andN :
    ends (placed [0xE6#8, 0x38#8] { start with a := 0x5A#8 })
      (fun t => t.a == 0x18#8 && t.pc == 0x0102#16 && t.f == ⟨false, false, false, false⟩ && t.bus.length == 2) = true := by
        decide

/-- `XOR A`: 95_test_vectors.md V41.18. -/
theorem test_step_xorR :
    ends (placed [0xAF#8] { start with a := 0xFF#8, f := ⟨false, true, true, true⟩ })
      (fun t => t.a == 0x00#8 && t.pc == 0x0101#16 && t.f == ⟨true, false, false, false⟩ && t.bus.length == 1) = true := by decide

/-- `XOR (HL)`: 95_test_vectors.md V41.20. -/
theorem test_step_xorHl :
    ends (placed [0xAE#8] { start with a := 0xFF#8, h := 0xC0#8, mem := [(0xC000, 0x8A#8)] })
      (fun t => t.a == 0x75#8 && t.pc == 0x0101#16 && t.f == ⟨false, false, false, false⟩ && t.bus.length == 2) = true := by
        decide

/-- `XOR n`: 95_test_vectors.md V41.19. -/
theorem test_step_xorN :
    ends (placed [0xEE#8, 0x0F#8] { start with a := 0xFF#8 })
      (fun t => t.a == 0xF0#8 && t.pc == 0x0102#16 && t.f == ⟨false, false, false, false⟩ && t.bus.length == 2) = true := by
        decide

/-- `OR A`: 95_test_vectors.md V41.21. -/
theorem test_step_orR :
    ends (placed [0xB7#8] { start with f := ⟨false, false, false, true⟩ })
      (fun t => t.pc == 0x0101#16 && t.f == ⟨true, false, false, false⟩ && t.bus.length == 1) = true := by decide

/-- `OR (HL)`: 95_test_vectors.md V41.23. -/
theorem test_step_orHl :
    ends (placed [0xB6#8] { start with a := 0x5A#8, h := 0xC0#8, mem := [(0xC000, 0x0F#8)] })
      (fun t => t.a == 0x5F#8 && t.pc == 0x0101#16 && t.f == ⟨false, false, false, false⟩ && t.bus.length == 2) = true := by
        decide

/-- `OR n`: 95_test_vectors.md V41.22. -/
theorem test_step_orN :
    ends (placed [0xF6#8, 0x03#8] { start with a := 0x5A#8 })
      (fun t => t.a == 0x5B#8 && t.pc == 0x0102#16 && t.f == ⟨false, false, false, false⟩ && t.bus.length == 2) = true := by
        decide

/-- `CP B`: 95_test_vectors.md V41.24. -/
theorem test_step_cpR :
    ends (placed [0xB8#8] { start with a := 0x3C#8, b := 0x2F#8 })
      (fun t => t.pc == 0x0101#16 && t.f == ⟨false, true, true, false⟩ && t.bus.length == 1) = true := by decide

/-- `CP (HL)`: 95_test_vectors.md V41.26. -/
theorem test_step_cpHl :
    ends (placed [0xBE#8] { start with a := 0x3C#8, h := 0xC0#8, mem := [(0xC000, 0x40#8)] })
      (fun t => t.pc == 0x0101#16 && t.f == ⟨false, true, false, true⟩ && t.bus.length == 2) = true := by decide

/-- `CP n`: 95_test_vectors.md V41.25. -/
theorem test_step_cpN :
    ends (placed [0xFE#8, 0x3C#8] { start with a := 0x3C#8 })
      (fun t => t.pc == 0x0102#16 && t.f == ⟨true, true, false, false⟩ && t.bus.length == 2) = true := by decide

/-- `INC A`: 95_test_vectors.md V41.27. -/
theorem test_step_incR :
    ends (placed [0x3C#8] { start with a := 0xFF#8, f := ⟨false, false, false, true⟩ })
      (fun t => t.a == 0x00#8 && t.pc == 0x0101#16 && t.f == ⟨true, false, true, true⟩ && t.bus.length == 1) = true := by decide

/-- `INC (HL)`: 95_test_vectors.md V41.29. -/
theorem test_step_incHl :
    ends (placed [0x34#8] { start with h := 0xC0#8, mem := [(0xC000, 0x50#8)] })
      (fun t => t.pc == 0x0101#16 && t.f == ⟨false, false, false, false⟩ && t.bus.length == 3 && t.bus.take 1 == [.write 0xC000#16
        0x51#8]) = true := by decide

/-- `DEC B`: 95_test_vectors.md V41.30. -/
theorem test_step_decR :
    ends (placed [0x05#8] { start with b := 0x01#8 })
      (fun t => t.b == 0x00#8 && t.pc == 0x0101#16 && t.f == ⟨true, true, false, false⟩ && t.bus.length == 1) = true := by decide

/-- `DEC (HL)`: 95_test_vectors.md V41.33. -/
theorem test_step_decHl :
    ends (placed [0x35#8] { start with h := 0xC0#8 })
      (fun t => t.pc == 0x0101#16 && t.f == ⟨false, true, true, false⟩ && t.bus.length == 3 && t.bus.take 1 == [.write 0xC000#16
        0xFF#8]) = true := by decide

/-- `INC BC`: 95_test_vectors.md V42.1. -/
theorem test_step_incRR :
    ends (placed [0x03#8] { start with b := 0xFF#8, c := 0xFF#8, f := ⟨true, false, false, true⟩ })
      (fun t => t.b == 0x00#8 && t.c == 0x00#8 && t.pc == 0x0101#16 && t.f == ⟨true, false, true, true⟩ && t.bus.length == 1) =
        true := by decide

/-- `DEC DE`: 95_test_vectors.md V42.4. -/
theorem test_step_decRR :
    ends (placed [0x1B#8] start)
      (fun t => t.d == 0xFF#8 && t.e == 0xFF#8 && t.pc == 0x0101#16 && t.f == ⟨false, true, true, false⟩ && t.bus.length == 1) =
        true := by decide

/-- `ADD HL,BC`: 95_test_vectors.md V42.7. -/
theorem test_step_addHlRR :
    ends (placed [0x09#8] { start with b := 0x06#8, c := 0x05#8, h := 0x8A#8, l := 0x23#8, f := ⟨true, true, false, false⟩ })
      (fun t => t.h == 0x90#8 && t.l == 0x28#8 && t.pc == 0x0101#16 && t.f == ⟨true, false, true, false⟩ && t.bus.length == 1) =
        true := by decide

/-- `ADD SP,e`: 95_test_vectors.md V42.10. -/
theorem test_step_addSpE :
    ends (placed [0xE8#8, 0x08#8] { start with sp := 0xFFF8#16, f := ⟨true, false, false, false⟩ })
      (fun t => t.sp == 0x0000#16 && t.pc == 0x0102#16 && t.f == ⟨true, false, true, true⟩ && t.bus.length == 2) = true := by
        decide

/-- `LD HL,SP+e`: 95_test_vectors.md V42.14. -/
theorem test_step_ldHlSpE :
    ends (placed [0xF8#8, 0x10#8] { start with sp := 0xCFF8#16, f := ⟨true, true, false, false⟩ })
      (fun t => t.h == 0xD0#8 && t.l == 0x08#8 && t.pc == 0x0102#16 && t.f == ⟨true, false, true, false⟩ && t.bus.length == 2) =
        true := by decide

/-- `RLCA`: 95_test_vectors.md V43.1. -/
theorem test_step_rlca :
    ends (placed [0x07#8] { start with a := 0x85#8, f := ⟨true, true, true, false⟩ })
      (fun t => t.a == 0x0B#8 && t.pc == 0x0101#16 && t.f == ⟨true, true, true, true⟩ && t.bus.length == 1) = true := by decide

/-- `RRCA`: 95_test_vectors.md V43.3. -/
theorem test_step_rrca :
    ends (placed [0x0F#8] { start with a := 0x01#8, f := ⟨true, false, false, false⟩ })
      (fun t => t.a == 0x80#8 && t.pc == 0x0101#16 && t.f == ⟨true, false, false, true⟩ && t.bus.length == 1) = true := by decide

/-- `RLA`: 95_test_vectors.md V43.4. -/
theorem test_step_rla :
    ends (placed [0x17#8] { start with a := 0x95#8, f := ⟨false, false, false, true⟩ })
      (fun t => t.a == 0x2B#8 && t.pc == 0x0101#16 && t.f == ⟨false, false, false, true⟩ && t.bus.length == 1) = true := by decide

/-- `RRA`: 95_test_vectors.md V43.6. -/
theorem test_step_rra :
    ends (placed [0x1F#8] { start with a := 0x81#8, f := ⟨true, false, false, true⟩ })
      (fun t => t.a == 0xC0#8 && t.pc == 0x0101#16 && t.f == ⟨true, false, false, true⟩ && t.bus.length == 1) = true := by decide

/-- `RLC B`: 95_test_vectors.md V43.8. -/
theorem test_step_rlcR :
    ends (placed [0xCB#8, 0x00#8] { start with b := 0x85#8, f := ⟨false, true, true, false⟩ })
      (fun t => t.b == 0x0B#8 && t.pc == 0x0102#16 && t.f == ⟨false, false, false, true⟩ && t.bus.length == 2) = true := by decide

/-- `RLC (HL)`: 95_test_vectors.md V43.10. -/
theorem test_step_rlcHl :
    ends (placed [0xCB#8, 0x06#8] { start with h := 0xC0#8, mem := [(0xC000, 0x80#8)] })
      (fun t => t.pc == 0x0102#16 && t.f == ⟨false, false, false, true⟩ && t.bus.length == 4 && t.bus.take 1 == [.write 0xC000#16
        0x01#8]) = true := by decide

/-- `RRC C`: 95_test_vectors.md V43.11. -/
theorem test_step_rrcR :
    ends (placed [0xCB#8, 0x09#8] { start with c := 0x01#8 })
      (fun t => t.c == 0x80#8 && t.pc == 0x0102#16 && t.f == ⟨false, false, false, true⟩ && t.bus.length == 2) = true := by decide

/-- `RRC (HL)`: 95_test_vectors.md V43.12. -/
theorem test_step_rrcHl :
    ends (placed [0xCB#8, 0x0E#8] { start with h := 0xC0#8, f := ⟨false, false, false, true⟩, mem := [(0xC000, 0x02#8)] })
      (fun t => t.pc == 0x0102#16 && t.f == ⟨false, false, false, false⟩ && t.bus.length == 4 && t.bus.take 1 == [.write 0xC000#16
        0x01#8]) = true := by decide

/-- `RL D`: 95_test_vectors.md V43.13. -/
theorem test_step_rlR :
    ends (placed [0xCB#8, 0x12#8] { start with d := 0x80#8 })
      (fun t => t.d == 0x00#8 && t.pc == 0x0102#16 && t.f == ⟨true, false, false, true⟩ && t.bus.length == 2) = true := by decide

/-- `RL (HL)`: 95_test_vectors.md V43.14. -/
theorem test_step_rlHl :
    ends (placed [0xCB#8, 0x16#8] { start with h := 0xC0#8, f := ⟨false, false, false, true⟩, mem := [(0xC000, 0x11#8)] })
      (fun t => t.pc == 0x0102#16 && t.f == ⟨false, false, false, false⟩ && t.bus.length == 4 && t.bus.take 1 == [.write 0xC000#16
        0x23#8]) = true := by decide

/-- `RR E`: 95_test_vectors.md V43.15. -/
theorem test_step_rrR :
    ends (placed [0xCB#8, 0x1B#8] { start with e := 0x01#8 })
      (fun t => t.e == 0x00#8 && t.pc == 0x0102#16 && t.f == ⟨true, false, false, true⟩ && t.bus.length == 2) = true := by decide

/-- `RR (HL)`: 95_test_vectors.md V43.16. -/
theorem test_step_rrHl :
    ends (placed [0xCB#8, 0x1E#8] { start with h := 0xC0#8, f := ⟨false, false, false, true⟩, mem := [(0xC000, 0x8A#8)] })
      (fun t => t.pc == 0x0102#16 && t.f == ⟨false, false, false, false⟩ && t.bus.length == 4 && t.bus.take 1 == [.write 0xC000#16
        0xC5#8]) = true := by decide

/-- `SLA H`: 95_test_vectors.md V43.17. -/
theorem test_step_slaR :
    ends (placed [0xCB#8, 0x24#8] { start with h := 0x80#8 })
      (fun t => t.h == 0x00#8 && t.pc == 0x0102#16 && t.f == ⟨true, false, false, true⟩ && t.bus.length == 2) = true := by decide

/-- `SLA (HL)`: 95_test_vectors.md V43.18. -/
theorem test_step_slaHl :
    ends (placed [0xCB#8, 0x26#8] { start with h := 0xC0#8, mem := [(0xC000, 0xFF#8)] })
      (fun t => t.pc == 0x0102#16 && t.f == ⟨false, false, false, true⟩ && t.bus.length == 4 && t.bus.take 1 == [.write 0xC000#16
        0xFE#8]) = true := by decide

/-- `SRA L`: 95_test_vectors.md V43.19. -/
theorem test_step_sraR :
    ends (placed [0xCB#8, 0x2D#8] { start with l := 0x81#8 })
      (fun t => t.l == 0xC0#8 && t.pc == 0x0102#16 && t.f == ⟨false, false, false, true⟩ && t.bus.length == 2) = true := by decide

/-- `SRA (HL)`: 95_test_vectors.md V43.20. -/
theorem test_step_sraHl :
    ends (placed [0xCB#8, 0x2E#8] { start with h := 0xC0#8, mem := [(0xC000, 0x01#8)] })
      (fun t => t.pc == 0x0102#16 && t.f == ⟨true, false, false, true⟩ && t.bus.length == 4 && t.bus.take 1 == [.write 0xC000#16
        0x00#8]) = true := by decide

/-- `SWAP A`: 95_test_vectors.md V43.21. -/
theorem test_step_swapR :
    ends (placed [0xCB#8, 0x37#8] { start with a := 0xA5#8, f := ⟨false, true, true, true⟩ })
      (fun t => t.a == 0x5A#8 && t.pc == 0x0102#16 && t.f == ⟨false, false, false, false⟩ && t.bus.length == 2) = true := by
        decide

/-- `SWAP (HL)`: 95_test_vectors.md V43.22. -/
theorem test_step_swapHl :
    ends (placed [0xCB#8, 0x36#8] { start with h := 0xC0#8, mem := [(0xC000, 0xF0#8)] })
      (fun t => t.pc == 0x0102#16 && t.f == ⟨false, false, false, false⟩ && t.bus.length == 4 && t.bus.take 1 == [.write 0xC000#16
        0x0F#8]) = true := by decide

/-- `SRL A`: 95_test_vectors.md V43.23. -/
theorem test_step_srlR :
    ends (placed [0xCB#8, 0x3F#8] { start with a := 0x81#8 })
      (fun t => t.a == 0x40#8 && t.pc == 0x0102#16 && t.f == ⟨false, false, false, true⟩ && t.bus.length == 2) = true := by decide

/-- `SRL (HL)`: 95_test_vectors.md V43.24. -/
theorem test_step_srlHl :
    ends (placed [0xCB#8, 0x3E#8] { start with h := 0xC0#8, mem := [(0xC000, 0xFF#8)] })
      (fun t => t.pc == 0x0102#16 && t.f == ⟨false, false, false, true⟩ && t.bus.length == 4 && t.bus.take 1 == [.write 0xC000#16
        0x7F#8]) = true := by decide

/-- `BIT 7,A`: 95_test_vectors.md V43.25. -/
theorem test_step_bitR :
    ends (placed [0xCB#8, 0x7F#8] { start with a := 0x80#8, f := ⟨false, true, false, true⟩ })
      (fun t => t.pc == 0x0102#16 && t.f == ⟨false, false, true, true⟩ && t.bus.length == 2) = true := by decide

/-- `BIT 0,(HL)`: 95_test_vectors.md V43.27. -/
theorem test_step_bitHl :
    ends (placed [0xCB#8, 0x46#8] { start with h := 0xC0#8, f := ⟨false, false, false, true⟩, mem := [(0xC000, 0xFE#8)] })
      (fun t => t.pc == 0x0102#16 && t.f == ⟨true, false, true, true⟩ && t.bus.length == 3) = true := by decide

/-- `RES 0,C`: 95_test_vectors.md V43.28. -/
theorem test_step_resR :
    ends (placed [0xCB#8, 0x81#8] { start with c := 0xFF#8, f := ⟨true, true, true, true⟩ })
      (fun t => t.c == 0xFE#8 && t.pc == 0x0102#16 && t.f == ⟨true, true, true, true⟩ && t.bus.length == 2) = true := by decide

/-- `RES 7,(HL)`: 95_test_vectors.md V43.29. -/
theorem test_step_resHl :
    ends (placed [0xCB#8, 0xBE#8] { start with h := 0xC0#8, mem := [(0xC000, 0xFF#8)] })
      (fun t => t.pc == 0x0102#16 && t.f == ⟨false, false, false, false⟩ && t.bus.length == 4 && t.bus.take 1 == [.write 0xC000#16
        0x7F#8]) = true := by decide

/-- `SET 7,D`: 95_test_vectors.md V43.31. -/
theorem test_step_setR :
    ends (placed [0xCB#8, 0xFA#8] { start with f := ⟨true, false, false, false⟩ })
      (fun t => t.d == 0x80#8 && t.pc == 0x0102#16 && t.f == ⟨true, false, false, false⟩ && t.bus.length == 2) = true := by decide

/-- `SET 3,(HL)`: 95_test_vectors.md V43.32. -/
theorem test_step_setHl :
    ends (placed [0xCB#8, 0xDE#8] { start with h := 0xC0#8 })
      (fun t => t.pc == 0x0102#16 && t.f == ⟨false, false, false, false⟩ && t.bus.length == 4 && t.bus.take 1 == [.write 0xC000#16
        0x08#8]) = true := by decide

/-- `DAA`: 95_test_vectors.md V44.1. -/
theorem test_step_daa :
    ends (placed [0x27#8] { start with a := 0x7D#8 })
      (fun t => t.a == 0x83#8 && t.pc == 0x0101#16 && t.f == ⟨false, false, false, false⟩ && t.bus.length == 1) = true := by
        decide

/-- `CPL`: 95_test_vectors.md V44.9. -/
theorem test_step_cpl :
    ends (placed [0x2F#8] { start with a := 0x35#8, f := ⟨true, false, false, true⟩ })
      (fun t => t.a == 0xCA#8 && t.pc == 0x0101#16 && t.f == ⟨true, true, true, true⟩ && t.bus.length == 1) = true := by decide

/-- `SCF`: 95_test_vectors.md V44.10. -/
theorem test_step_scf :
    ends (placed [0x37#8] { start with f := ⟨true, true, true, false⟩ })
      (fun t => t.pc == 0x0101#16 && t.f == ⟨true, false, false, true⟩ && t.bus.length == 1) = true := by decide

/-- `CCF`: 95_test_vectors.md V44.11. -/
theorem test_step_ccf :
    ends (placed [0x3F#8] { start with f := ⟨false, true, true, true⟩ })
      (fun t => t.pc == 0x0101#16 && t.f == ⟨false, false, false, false⟩ && t.bus.length == 1) = true := by decide

/-- `LD B,A`: 95_test_vectors.md V45.1. -/
theorem test_step_ldReg :
    ends (placed [0x47#8] { start with a := 0x7E#8, f := ⟨true, true, true, true⟩ })
      (fun t => t.b == 0x7E#8 && t.pc == 0x0101#16 && t.f == ⟨true, true, true, true⟩ && t.bus.length == 1) = true := by decide

/-- `LD C,n`: 95_test_vectors.md V45.3. -/
theorem test_step_ldRegN :
    ends (placed [0x0E#8, 0x9A#8] start)
      (fun t => t.c == 0x9A#8 && t.pc == 0x0102#16 && t.f == ⟨false, false, false, false⟩ && t.bus.length == 2) = true := by
        decide

/-- `LD E,(HL)`: 95_test_vectors.md V45.4. -/
theorem test_step_ldRegHl :
    ends (placed [0x5E#8] { start with h := 0xC1#8, l := 0x23#8, mem := [(0xC123, 0x77#8)] })
      (fun t => t.e == 0x77#8 && t.pc == 0x0101#16 && t.f == ⟨false, false, false, false⟩ && t.bus.length == 2) = true := by
        decide

/-- `LD (HL),D`: 95_test_vectors.md V45.6. -/
theorem test_step_ldHlReg :
    ends (placed [0x72#8] { start with d := 0x42#8, h := 0xC0#8 })
      (fun t => t.pc == 0x0101#16 && t.f == ⟨false, false, false, false⟩ && t.bus.length == 2 && t.bus.take 1 == [.write 0xC000#16
        0x42#8]) = true := by decide

/-- `LD (HL),n`: 95_test_vectors.md V45.8. -/
theorem test_step_ldHlN :
    ends (placed [0x36#8, 0xA7#8] { start with h := 0xC0#8 })
      (fun t => t.pc == 0x0102#16 && t.f == ⟨false, false, false, false⟩ && t.bus.length == 3 && t.bus.take 1 == [.write 0xC000#16
        0xA7#8]) = true := by decide

/-- `LD A,(BC)`: 95_test_vectors.md V45.9. -/
theorem test_step_ldABc :
    ends (placed [0x0A#8] { start with b := 0x12#8, c := 0x34#8, mem := [(0x1234, 0x2F#8)] })
      (fun t => t.a == 0x2F#8 && t.pc == 0x0101#16 && t.f == ⟨false, false, false, false⟩ && t.bus.length == 2) = true := by
        decide

/-- `LD A,(DE)`: 95_test_vectors.md V45.10. -/
theorem test_step_ldADe :
    ends (placed [0x1A#8] { start with d := 0xD0#8, mem := [(0xD000, 0x5F#8)] })
      (fun t => t.a == 0x5F#8 && t.pc == 0x0101#16 && t.f == ⟨false, false, false, false⟩ && t.bus.length == 2) = true := by
        decide

/-- `LD (BC),A`: 95_test_vectors.md V45.11. -/
theorem test_step_ldBcA :
    ends (placed [0x02#8] { start with a := 0x3F#8, b := 0xC2#8, c := 0x05#8 })
      (fun t => t.pc == 0x0101#16 && t.f == ⟨false, false, false, false⟩ && t.bus.length == 2 && t.bus.take 1 == [.write 0xC205#16
        0x3F#8]) = true := by decide

/-- `LD (DE),A`: 95_test_vectors.md V45.12. -/
theorem test_step_ldDeA :
    ends (placed [0x12#8] { start with a := 0x01#8, d := 0xFF#8, e := 0xFF#8 })
      (fun t => t.pc == 0x0101#16 && t.f == ⟨false, false, false, false⟩ && t.bus.length == 2 && t.bus.take 1 == [.write 0xFFFF#16
        0x01#8]) = true := by decide

/-- `LD A,(nn)`: 95_test_vectors.md V45.13. -/
theorem test_step_ldANn :
    ends (placed [0xFA#8, 0x00#8, 0x80#8] { start with mem := [(0x8000, 0x99#8)] })
      (fun t => t.a == 0x99#8 && t.pc == 0x0103#16 && t.f == ⟨false, false, false, false⟩ && t.bus.length == 4) = true := by
        decide

/-- `LD (nn),A`: 95_test_vectors.md V45.14. -/
theorem test_step_ldNnA :
    ends (placed [0xEA#8, 0x34#8, 0xC2#8] { start with a := 0x5A#8 })
      (fun t => t.pc == 0x0103#16 && t.f == ⟨false, false, false, false⟩ && t.bus.length == 4 && t.bus.take 1 == [.write 0xC234#16
        0x5A#8]) = true := by decide

/-- `LDH A,(n)`: 95_test_vectors.md V45.15. -/
theorem test_step_ldhAN :
    ends (placed [0xF0#8, 0x44#8] { start with mem := [(0xFF44, 0x90#8)] })
      (fun t => t.a == 0x90#8 && t.pc == 0x0102#16 && t.f == ⟨false, false, false, false⟩ && t.bus.length == 3) = true := by
        decide

/-- `LDH (n),A`: 95_test_vectors.md V45.16. -/
theorem test_step_ldhNA :
    ends (placed [0xE0#8, 0x80#8] { start with a := 0x11#8 })
      (fun t => t.pc == 0x0102#16 && t.f == ⟨false, false, false, false⟩ && t.bus.length == 3 && t.bus.take 1 == [.write 0xFF80#16
        0x11#8]) = true := by decide

/-- `LD A,(C)`: 95_test_vectors.md V45.17. -/
theorem test_step_ldAC :
    ends (placed [0xF2#8] { start with c := 0x95#8, mem := [(0xFF95, 0x3C#8)] })
      (fun t => t.a == 0x3C#8 && t.pc == 0x0101#16 && t.f == ⟨false, false, false, false⟩ && t.bus.length == 2) = true := by
        decide

/-- `LD (C),A`: 95_test_vectors.md V45.18. -/
theorem test_step_ldCA :
    ends (placed [0xE2#8] { start with a := 0x77#8, c := 0xFF#8 })
      (fun t => t.pc == 0x0101#16 && t.f == ⟨false, false, false, false⟩ && t.bus.length == 2 && t.bus.take 1 == [.write 0xFFFF#16
        0x77#8]) = true := by decide

/-- `LD (HL+),A`: 95_test_vectors.md V45.19. -/
theorem test_step_ldHlIncA :
    ends (placed [0x22#8] { start with a := 0x56#8, h := 0xFF#8, l := 0xFF#8 })
      (fun t => t.h == 0x00#8 && t.l == 0x00#8 && t.pc == 0x0101#16 && t.f == ⟨false, false, false, false⟩ && t.bus.length == 2 &&
        t.bus.take 1 == [.write 0xFFFF#16 0x56#8]) = true := by decide

/-- `LD A,(HL+)`: 95_test_vectors.md V45.20. -/
theorem test_step_ldAHlInc :
    ends (placed [0x2A#8] { start with h := 0x01#8, l := 0xFF#8, mem := [(0x01FF, 0x56#8)] })
      (fun t => t.a == 0x56#8 && t.h == 0x02#8 && t.l == 0x00#8 && t.pc == 0x0101#16 && t.f == ⟨false, false, false, false⟩ &&
        t.bus.length == 2) = true := by decide

/-- `LD (HL-),A`: 95_test_vectors.md V45.21. -/
theorem test_step_ldHlDecA :
    ends (placed [0x32#8] { start with a := 0x05#8, h := 0x40#8 })
      (fun t => t.h == 0x3F#8 && t.l == 0xFF#8 && t.pc == 0x0101#16 && t.f == ⟨false, false, false, false⟩ && t.bus.length == 2 &&
        t.bus.take 1 == [.write 0x4000#16 0x05#8]) = true := by decide

/-- `LD A,(HL-)`: 95_test_vectors.md V45.22. -/
theorem test_step_ldAHlDec :
    ends (placed [0x3A#8] { start with pc := 0x0200#16, mem := [(0x0000, 0x3C#8)] })
      (fun t => t.a == 0x3C#8 && t.h == 0xFF#8 && t.l == 0xFF#8 && t.pc == 0x0201#16 && t.f == ⟨false, false, false, false⟩ &&
        t.bus.length == 2) = true := by decide

/-- `LD HL,nn`: 95_test_vectors.md V46.1. -/
theorem test_step_ldRRNn :
    ends (placed [0x21#8, 0x5B#8, 0x3A#8] start)
      (fun t => t.h == 0x3A#8 && t.l == 0x5B#8 && t.pc == 0x0103#16 && t.f == ⟨false, false, false, false⟩ && t.bus.length == 3) =
        true := by decide

/-- `LD (nn),SP`: 95_test_vectors.md V46.3. -/
theorem test_step_ldNnSp :
    ends (placed [0x08#8, 0x00#8, 0xC1#8] { start with sp := 0xFFF8#16 })
      (fun t => t.pc == 0x0103#16 && t.f == ⟨false, false, false, false⟩ && t.bus.length == 5 && t.bus.take 2 == [.write 0xC101#16
        0xFF#8, .write 0xC100#16 0xF8#8]) = true := by decide

/-- `LD SP,HL`: 95_test_vectors.md V46.5. -/
theorem test_step_ldSpHl :
    ends (placed [0xF9#8] { start with h := 0xC1#8 })
      (fun t => t.sp == 0xC100#16 && t.pc == 0x0101#16 && t.f == ⟨false, false, false, false⟩ && t.bus.length == 1) = true := by
        decide

/-- `PUSH BC`: 95_test_vectors.md V46.6. -/
theorem test_step_pushPair :
    ends (placed [0xC5#8] { start with b := 0x12#8, c := 0x34#8, sp := 0xFFFE#16 })
      (fun t => t.sp == 0xFFFC#16 && t.pc == 0x0101#16 && t.f == ⟨false, false, false, false⟩ && t.bus.length == 3 && t.bus.take 2
        == [.write 0xFFFC#16 0x34#8, .write 0xFFFD#16 0x12#8]) = true := by decide

/-- `PUSH AF`: 95_test_vectors.md V46.8. -/
theorem test_step_pushAf :
    ends (placed [0xF5#8] { start with a := 0x12#8, sp := 0xD000#16, f := ⟨true, false, false, true⟩ })
      (fun t => t.sp == 0xCFFE#16 && t.pc == 0x0101#16 && t.f == ⟨true, false, false, true⟩ && t.bus.length == 3 && t.bus.take 2
        == [.write 0xCFFE#16 0x90#8, .write 0xCFFF#16 0x12#8]) = true := by decide

/-- `POP DE`: 95_test_vectors.md V46.9. -/
theorem test_step_popPair :
    ends (placed [0xD1#8] { start with sp := 0xCFFE#16, mem := [(0xCFFE, 0x34#8), (0xCFFF, 0x12#8)] })
      (fun t => t.d == 0x12#8 && t.e == 0x34#8 && t.sp == 0xD000#16 && t.pc == 0x0101#16 && t.f == ⟨false, false, false, false⟩ &&
        t.bus.length == 3) = true := by decide

/-- `POP AF`: 95_test_vectors.md V46.10. -/
theorem test_step_popAf :
    ends (placed [0xF1#8] { start with sp := 0xCFFE#16, mem := [(0xCFFE, 0xFF#8), (0xCFFF, 0x12#8)] })
      (fun t => t.a == 0x12#8 && t.sp == 0xD000#16 && t.pc == 0x0101#16 && t.f == ⟨true, true, true, true⟩ && t.bus.length == 3) =
        true := by decide

/-- `JP nn`: 95_test_vectors.md V47.1. -/
theorem test_step_jpNn :
    ends (placed [0xC3#8, 0x50#8, 0x01#8] start)
      (fun t => t.pc == 0x0150#16 && t.f == ⟨false, false, false, false⟩ && t.bus.length == 3) = true := by decide

/-- `JP Z,nn`: 95_test_vectors.md V47.2. -/
theorem test_step_jpCcNn :
    ends (placed [0xCA#8, 0x00#8, 0x80#8] { start with f := ⟨true, false, false, false⟩ })
      (fun t => t.pc == 0x8000#16 && t.f == ⟨true, false, false, false⟩ && t.bus.length == 3) = true := by decide

/-- `JP Z,nn`: 95_test_vectors.md V47.3. -/
theorem test_step_jpCcNn_second :
    ends (placed [0xCA#8, 0x00#8, 0x80#8] start)
      (fun t => t.pc == 0x0103#16 && t.f == ⟨false, false, false, false⟩ && t.bus.length == 3) = true := by decide

/-- `JP HL`: 95_test_vectors.md V47.5. -/
theorem test_step_jpHl :
    ends (placed [0xE9#8] { start with h := 0x80#8 })
      (fun t => t.pc == 0x8000#16 && t.f == ⟨false, false, false, false⟩ && t.bus.length == 1) = true := by decide

/-- `JR e`: 95_test_vectors.md V47.6. -/
theorem test_step_jrE :
    ends (placed [0x18#8, 0xFE#8] start)
      (fun t => t.pc == 0x0100#16 && t.f == ⟨false, false, false, false⟩ && t.bus.length == 2) = true := by decide

/-- `JR NZ,e`: 95_test_vectors.md V47.10. -/
theorem test_step_jrCcE :
    ends (placed [0x20#8, 0x05#8] { start with f := ⟨true, false, false, false⟩ })
      (fun t => t.pc == 0x0102#16 && t.f == ⟨true, false, false, false⟩ && t.bus.length == 2) = true := by decide

/-- `JR C,e`: 95_test_vectors.md V47.11. -/
theorem test_step_jrCcE_second :
    ends (placed [0x38#8, 0xFB#8] { start with f := ⟨false, false, false, true⟩ })
      (fun t => t.pc == 0x00FD#16 && t.f == ⟨false, false, false, true⟩ && t.bus.length == 2) = true := by decide

/-- `CALL nn`: 95_test_vectors.md V47.12. -/
theorem test_step_callNn :
    ends (placed [0xCD#8, 0x34#8, 0x12#8] { start with sp := 0xFFFE#16, pc := 0x0200#16 })
      (fun t => t.sp == 0xFFFC#16 && t.pc == 0x1234#16 && t.f == ⟨false, false, false, false⟩ && t.bus.length == 5 && t.bus.take 2
        == [.write 0xFFFC#16 0x03#8, .write 0xFFFD#16 0x02#8]) = true := by decide

/-- `CALL NZ,nn`: 95_test_vectors.md V47.13. -/
theorem test_step_callCcNn :
    ends (placed [0xC4#8, 0x34#8, 0x12#8] { start with sp := 0xFFFE#16, pc := 0x0200#16, f := ⟨true, false, false, false⟩ })
      (fun t => t.pc == 0x0203#16 && t.f == ⟨true, false, false, false⟩ && t.bus.length == 3) = true := by decide

/-- `CALL C,nn`: 95_test_vectors.md V47.14. -/
theorem test_step_callCcNn_second :
    ends (placed [0xDC#8, 0x00#8, 0x40#8] { start with sp := 0xD000#16, pc := 0x0200#16, f := ⟨false, false, false, true⟩ })
      (fun t => t.sp == 0xCFFE#16 && t.pc == 0x4000#16 && t.f == ⟨false, false, false, true⟩ && t.bus.length == 5 && t.bus.take 2
        == [.write 0xCFFE#16 0x03#8, .write 0xCFFF#16 0x02#8]) = true := by decide

/-- `RET`: 95_test_vectors.md V47.15. -/
theorem test_step_ret :
    ends (placed [0xC9#8] { start with sp := 0xFFFC#16, pc := 0x1234#16, mem := [(0xFFFC, 0x03#8), (0xFFFD, 0x02#8)] })
      (fun t => t.sp == 0xFFFE#16 && t.pc == 0x0203#16 && t.f == ⟨false, false, false, false⟩ && t.bus.length == 3) = true := by
        decide

/-- `RET Z`: 95_test_vectors.md V47.16. -/
theorem test_step_retCc :
    ends (placed [0xC8#8] { start with sp := 0xFFFC#16, pc := 0x1234#16, mem := [(0xFFFC, 0x03#8), (0xFFFD, 0x02#8)] })
      (fun t => t.pc == 0x1235#16 && t.f == ⟨false, false, false, false⟩ && t.bus.length == 1) = true := by decide

/-- `RET NC`: 95_test_vectors.md V47.17. -/
theorem test_step_retCc_second :
    ends (placed [0xD0#8] { start with sp := 0xFFFC#16, pc := 0x1234#16, mem := [(0xFFFC, 0x03#8), (0xFFFD, 0x02#8)] })
      (fun t => t.sp == 0xFFFE#16 && t.pc == 0x0203#16 && t.f == ⟨false, false, false, false⟩ && t.bus.length == 3) = true := by
        decide

/-- `RETI`: 95_test_vectors.md V47.18. -/
theorem test_step_reti :
    ends (placed [0xD9#8] { start with sp := 0xFFFC#16, pc := 0x0040#16, mem := [(0xFFFC, 0x51#8), (0xFFFD, 0x01#8)] })
      (fun t => t.sp == 0xFFFE#16 && t.pc == 0x0151#16 && t.f == ⟨false, false, false, false⟩ && t.signal == .intEnable &&
        t.bus.length == 3) = true := by decide

/-- `RST 28H`: 95_test_vectors.md V47.19. -/
theorem test_step_rst :
    ends (placed [0xEF#8] { start with sp := 0xFFFE#16, pc := 0x0150#16 })
      (fun t => t.sp == 0xFFFC#16 && t.pc == 0x0028#16 && t.f == ⟨false, false, false, false⟩ && t.bus.length == 3 && t.bus.take 2
        == [.write 0xFFFC#16 0x51#8, .write 0xFFFD#16 0x01#8]) = true := by decide

/-- `NOP`: 95_test_vectors.md V48.1. -/
theorem test_step_nop :
    ends (placed [0x00#8] { start with f := ⟨true, true, true, true⟩ })
      (fun t => t.pc == 0x0101#16 && t.f == ⟨true, true, true, true⟩ && t.bus.length == 1) = true := by decide

/-- `HALT`: 95_test_vectors.md V48.3. -/
theorem test_step_halt :
    ends (placed [0x76#8] start)
      (fun t => t.pc == 0x0101#16 && t.f == ⟨false, false, false, false⟩ && t.signal == .halt && t.bus.length == 1) = true := by
        decide

/-- `STOP`: 95_test_vectors.md V48.4. -/
theorem test_step_stop :
    ends (placed [0x10#8, 0x00#8] start)
      (fun t => t.pc == 0x0101#16 && t.f == ⟨false, false, false, false⟩ && t.signal == .stop && t.bus.length == 1) = true := by
        decide

/-- `DI`: 95_test_vectors.md V48.5. -/
theorem test_step_di :
    ends (placed [0xF3#8] start)
      (fun t => t.pc == 0x0101#16 && t.f == ⟨false, false, false, false⟩ && t.signal == .intDisable && t.bus.length == 1) = true
        := by decide

/-- `EI`: 95_test_vectors.md V48.6. -/
theorem test_step_ei :
    ends (placed [0xFB#8] start)
      (fun t => t.pc == 0x0101#16 && t.f == ⟨false, false, false, false⟩ && t.signal == .intEnable && t.bus.length == 1) = true :=
        by decide

/-- 48_system.md R246, 60_exceptions.md R250 and R251. -/
theorem test_step_illegal_rows_fault :
    [0xD3#8, 0xDB#8, 0xDD#8, 0xE3#8, 0xE4#8, 0xEB#8, 0xEC#8, 0xED#8, 0xF4#8, 0xFC#8, 0xFD#8].all (fun byte =>
      match step (placed [byte] start) with
      | .fault f => decide (f = .illegalOpcode byte false) && (placed [byte] start).afterFault.pc == 0x0100#16 &&
          (placed [byte] start).afterFault.bus.length == 1
      | _ => false) = true := by decide

/-- 48_system.md R242: with STOP_LEN = 2, `pc` moves by two. -/
theorem test_step_stop_two :
    ends (placed [0x10#8] { start with config := { Config.default with stopLen := .two } })
      (fun t => t.pc == 0x0102#16 && t.signal == .stop && t.bus.length == 1) = true := by decide

/-! ## Witnesses: states and operands that meet the hypotheses of each statement -/

open Sys2Proof.Claims

/-- A state whose top 32 KiB are not plain RAM. -/
def halfExternal : State := { start with config := { Config.default with external := [{ first := 0x8000#16, last := 0xFFFF#16 }] } }

/-- A state with the host's `skip` input. -/
def withSkip : State := { start with config := { Config.default with hostSkip := true } }

theorem witness_DaaRenormalizesBcd :
    (99 < 100 ∧ { start with a := 0x99#8, b := 0x99#8 }.a = bcd 99 ∧ { start with a := 0x99#8, b := 0x99#8 }.b = bcd 99) ∧
      0 < 100 ∧ start.a = bcd 0 ∧ start.b = bcd 0 := by decide

/-- With `sp` 0x0001 the push wraps around the address space. -/
theorem witness_PushAndPopMoveWordsThroughStack :
    let s : State := { start with sp := 0x0001#16 }
    s.mem.wf = true ∧ plain s (s.sp - 1#16) ∧ plain s (s.sp - 2#16) := ⟨rfl, rfl, rfl⟩

theorem witness_PushAndPopAfRouteTheFlagsByte : ∃ t, exec .popAf start = .next t := ⟨_, rfl⟩

theorem witness_PrefixSelectsThePrefixedTable : busValue start.pc (placed [0xCB#8, 0x37#8] start) = 0xCB#8 := by decide

theorem witness_IllegalRowsRaiseIllegalOpcode :
    Instr.illegalByte .illegalD3 = some 0xD3#8 ∧ Instr.illegalByte .illegalFD = some 0xFD#8 := by decide

theorem witness_DecodeOfEncodeGivesTheInstruction : Instr.isPrefixRow (.bitHl 7#3) = false := by decide

theorem witness_EncodeOfDecodeGivesTheBytes :
    decode [0xFA#8, 0x00#8, 0x80#8, 0x76#8] = .ok (.ldANn 0x8000#16, [0x76#8]) ∧ encode .halt = encode .halt := ⟨rfl, rfl⟩

/-- An instruction of three bytes that straddles the top of the address space, and one of one byte. -/
theorem witness_StepRunsDecodedInstruction :
    decode (readBytes 3 0xFFFE#16 (placed [0xFA#8, 0x34#8, 0x12#8] { start with pc := 0xFFFE#16 })).1 =
        .ok (.ldANn 0x1234#16, []) ∧
      decode (readBytes 3 start.pc (placed [0x76#8] start)).1 = .ok (.halt, [0x00#8, 0x00#8]) := ⟨rfl, rfl⟩

theorem witness_StepRunsEncodedInstruction :
    Instr.isPrefixRow (.swapR .a) = false ∧
      (readBytes (encode (.swapR .a)).length start.pc (placed [0xCB#8, 0x37#8] start)).1 = encode (.swapR .a) := ⟨rfl, rfl⟩

theorem witness_StepFaultsExactlyOnElevenBytes :
    step (placed [0xD3#8] start) = .fault (.illegalOpcode 0xD3#8 false) := rfl

/-- A transfer that is taken, one that is not, and an instruction that goes past its bytes. -/
theorem witness_PcAdvancesByLengthOrToTarget :
    (∃ t, exec (.jrCcE .nz 0x80#8) start = .next t) ∧ (∃ t, exec (.retCc .z) start = .next t) ∧
      (∃ t, exec .prefixCb start = .next t) ∧ ∃ t, exec (.ldANn 0xFFFF#16) start = .next t :=
  ⟨⟨_, rfl⟩, ⟨_, rfl⟩, ⟨_, rfl⟩, ⟨_, rfl⟩⟩

theorem witness_StepReadsFromPcThenWrites : ∃ t, step (placed [0xCB#8, 0x06#8] { start with h := 0xC0#8 }) = .next t := ⟨_, rfl⟩

theorem witness_StepKeepsMemoryCanonical :
    (placed [0x77#8] start).mem.wf = true ∧ ∃ t, step (placed [0x77#8] start) = .next t := ⟨rfl, ⟨_, rfl⟩⟩

theorem witness_ResetMemoryIsCanonical : (placed [0x01#8, 0x00#8, 0xFF#8] start).mem.wf = true := by decide

theorem witness_StepKeepsMemoryCoherentWithHistory :
    Coherent (placed [0x77#8] start).mem (placed [0x77#8] start) ∧ ∃ t, step (placed [0x77#8] start) = .next t :=
  ⟨⟨rfl, fun _ _ => rfl, trivial⟩, ⟨_, rfl⟩⟩

theorem witness_LaunchIsCoherent : (placed [0x77#8] start).mem.wf = true ∧ (placed [0x77#8] start).bus = [] := ⟨rfl, rfl⟩

/-- Two states that differ in memory, history and signal, and answer alike: one holds its bytes, the other's are read from it. -/
theorem witness_StepDependsOnlyOnCoreAndAnswers :
    let s := placed [0x34#8] start
    let t : State := { s with bus := [.write 0x1234#16 0x56#8], signal := .halt }
    sameCore s t ∧ s.config.stopLen = t.config.stopLen ∧
      (∀ (reads : List BusEvent) (addr : Word), (∀ e ∈ reads, isRead e = true) → answerAfter s reads addr = answerAfter t reads addr) ∧
      (∃ s', step s = .next s') ∧ step (placed [0xD3#8] start) = .fault (.illegalOpcode 0xD3#8 false) :=
  ⟨⟨fun _ => rfl, rfl, rfl, rfl⟩, rfl, fun _ _ _ => rfl, ⟨_, rfl⟩, rfl⟩

/-- At the top of the address space the next instruction starts at 0x0002. -/
theorem witness_StoreIsSeenByNextFetch :
    let s : State := { start with pc := 0xFFFF#16 }
    s.mem.wf = true ∧ plain s (s.pc + 3#16) := ⟨rfl, rfl⟩

theorem witness_OnlyListedInstructionsWriteSp :
    (∃ t, exec (.incRR .hl) start = .next t) ∧ writesSp (.incRR .hl) = false := ⟨⟨_, rfl⟩, rfl⟩

theorem witness_OnlyDestinationRegistersChange :
    (∃ t, exec .prefixCb start = .next t) ∧ Reg8.a ∉ registersWritten (rowRun .prefixCb start) ∧
      (∃ t, exec (.popPair .hl) start = .next t) ∧ Reg8.a ∉ registersWritten (rowRun (.popPair .hl) start) :=
  ⟨⟨_, rfl⟩, by decide, ⟨_, rfl⟩, by decide⟩

theorem witness_FlagsFollowTheSummaryTable : (∃ t, exec (.bitR 7#3 .a) start = .next t) ∧ ∃ t, exec .popAf start = .next t :=
  ⟨⟨_, rfl⟩, ⟨_, rfl⟩⟩

/-- A push that wraps, and an address beside its two bytes; and a form that stores nothing. -/
theorem witness_OnlyStoredBytesChange :
    (∃ t, exec .pushAf start = .next t) ∧ 0x0000#16 ∉ storesTo (rowRun .pushAf start) start ∧
      (∃ t, exec .cpHl start = .next t) ∧ 0xFFFF#16 ∉ storesTo (rowRun .cpHl start) start :=
  ⟨⟨_, rfl⟩, by decide, ⟨_, rfl⟩, by decide⟩

theorem witness_OnlyFiveInstructionsSignal : (∃ t, exec .reti start = .next t) ∧ ∃ t, exec .nop start = .next t :=
  ⟨⟨_, rfl⟩, ⟨_, rfl⟩⟩

theorem witness_RegistersAndPairViewsAgree : Pair.de ≠ Pair.hl := by decide

theorem witness_ConditionsReadZeroOrCarry :
    condHolds start.f .nz = true ∧ condHolds { z := true, n := false, h := false, c := true } .c = true := by decide

theorem witness_BusWriteChangesOneByte :
    plain halfExternal 0x7FFF#16 ∧ halfExternal.mem.wf = true ∧ ¬ plain halfExternal 0x8000#16 ∧ ¬ plain halfExternal 0xFFFF#16 := by
  decide

theorem witness_BusReadAnswersAndIsRecorded : plain halfExternal 0x7FFF#16 ∧ ¬ plain halfExternal 0x8000#16 := by decide

theorem witness_RetUndoesCall :
    let s : State := { start with sp := 0x0001#16 }
    s.mem.wf = true ∧ plain s (s.sp - 1#16) ∧ plain s (s.sp - 2#16) := ⟨rfl, rfl, rfl⟩

theorem witness_FaultWritesNothingAndRepeats :
    step (placed [0xFD#8] start) = .fault (.illegalOpcode 0xFD#8 false) ∧ plain start start.pc := ⟨rfl, rfl⟩

theorem witness_SkipAfterFaultSubstitutesNop :
    start.config.hostSkip = false ∧ withSkip.config.hostSkip = true ∧
      step (placed [0xE3#8] withSkip) = .fault (.illegalOpcode 0xE3#8 false) := ⟨rfl, rfl, rfl⟩

theorem witness_DefaultResetIsAllZero : start.config = Config.default := rfl

/-- One state for each of the signals and for the fault. -/
theorem witness_RunEndsOnHaltStopOrFault :
    (∃ t, step (placed [0x76#8] start) = .next t ∧ t.signal = .halt) ∧
      (∃ t, step (placed [0x10#8] start) = .next t ∧ t.signal = .stop) ∧
      (∃ t, step (placed [0x00#8] start) = .next t ∧ t.signal = .none) ∧
      (∃ t, step (placed [0xFB#8] start) = .next t ∧ t.signal = .intEnable) ∧
      (∃ t, step (placed [0xF3#8] start) = .next t ∧ t.signal = .intDisable) ∧
      step (placed [0xDB#8] start) = .fault (.illegalOpcode 0xDB#8 false) :=
  ⟨⟨_, rfl, rfl⟩, ⟨_, rfl, rfl⟩, ⟨_, rfl, rfl⟩, ⟨_, rfl, rfl⟩, ⟨_, rfl, rfl⟩, rfl⟩

theorem witness_DecodeRecordDescribesTheStep :
    (decodeRecord (placed [0xCB#8, 0x37#8] start)).form = some (.swapR .a) ∧ (decodeRecord (placed [0xD3#8] start)).form = none :=
  ⟨rfl, rfl⟩

theorem witness_ReadModifyWriteAtHlActsAsOnRegister :
    ((.incR, .incHl) : (Reg8 → Instr) × Instr) ∈
      [(.incR, .incHl), (.decR, .decHl), (.rlcR, .rlcHl), (.rrcR, .rrcHl), (.rlR, .rlHl), (.rrR, .rrHl), (.slaR, .slaHl),
        (.sraR, .sraHl), (.swapR, .swapHl), (.srlR, .srlHl), (.resR 7#3, .resHl 7#3), (.setR 7#3, .setHl 7#3)] := by simp

end Sys2Proof.Tests
end

section
/-! SUPPORT. Facts about the decoder and the encoder (30_encoding.md): what the two tables hold, and that decoding undoes encoding. -/

namespace Sys2Proof

/-! ## The prefixed table -/

/-- The 22 instruction forms of the prefixed table (30_encoding.md section 6.2), so that a fact about every entry of the table is a case
split on these; `prefixedTable_form` says that they are all there is. -/
inductive PrefixedForm : Instr → Prop where
  | rlcR (r : Reg8) : PrefixedForm (.rlcR r)
  | rlcHl : PrefixedForm .rlcHl
  | rrcR (r : Reg8) : PrefixedForm (.rrcR r)
  | rrcHl : PrefixedForm .rrcHl
  | rlR (r : Reg8) : PrefixedForm (.rlR r)
  | rlHl : PrefixedForm .rlHl
  | rrR (r : Reg8) : PrefixedForm (.rrR r)
  | rrHl : PrefixedForm .rrHl
  | slaR (r : Reg8) : PrefixedForm (.slaR r)
  | slaHl : PrefixedForm .slaHl
  | sraR (r : Reg8) : PrefixedForm (.sraR r)
  | sraHl : PrefixedForm .sraHl
  | swapR (r : Reg8) : PrefixedForm (.swapR r)
  | swapHl : PrefixedForm .swapHl
  | srlR (r : Reg8) : PrefixedForm (.srlR r)
  | srlHl : PrefixedForm .srlHl
  | bitR (b : BitVec 3) (r : Reg8) : PrefixedForm (.bitR b r)
  | bitHl (b : BitVec 3) : PrefixedForm (.bitHl b)
  | resR (b : BitVec 3) (r : Reg8) : PrefixedForm (.resR b r)
  | resHl (b : BitVec 3) : PrefixedForm (.resHl b)
  | setR (b : BitVec 3) (r : Reg8) : PrefixedForm (.setR b r)
  | setHl (b : BitVec 3) : PrefixedForm (.setHl b)

/-- What holds of a row for every register, and of its neighbour at HL, holds of the row that a code selects. -/
theorem regOrHl_of {P : Instr → Prop} {reg : Reg8 → Instr} {hl : Instr} (hreg : ∀ r, P (reg r)) (hhl : P hl)
    (k : BitVec 3) : P (regOrHl k reg hl) := by
  unfold regOrHl
  cases Reg8.ofCode k with
  | some r => exact hreg r
  | none => exact hhl

theorem prefixedRotate_form (y z : BitVec 3) : PrefixedForm (prefixedRotate y z) := by
  unfold prefixedRotate
  split
  · exact regOrHl_of .rlcR .rlcHl z
  · exact regOrHl_of .rrcR .rrcHl z
  · exact regOrHl_of .rlR .rlHl z
  · exact regOrHl_of .rrR .rrHl z
  · exact regOrHl_of .slaR .slaHl z
  · exact regOrHl_of .sraR .sraHl z
  · exact regOrHl_of .swapR .swapHl z
  · exact regOrHl_of .srlR .srlHl z

/-- The prefixed table has no absent entry (30_encoding.md R75). -/
theorem prefixedTable_form (op : Byte) : PrefixedForm (prefixedTable op) := by
  unfold prefixedTable
  split
  · exact prefixedRotate_form _ _
  · exact regOrHl_of (.bitR _) (.bitHl _) _
  · exact regOrHl_of (.resR _) (.resHl _) _
  · exact regOrHl_of (.setR _) (.setHl _) _

theorem PrefixedForm.wellFormed {i : Instr} (h : PrefixedForm i) : i.wellFormed = true := by
  cases h <;> rfl

theorem PrefixedForm.ne_prefixCb {i : Instr} (h : PrefixedForm i) : i ≠ .prefixCb := by
  rintro rfl
  cases h

/-! ## The stand-alone decoder -/

@[simp] theorem tableAnswer_prefixed (op : Byte) : tableAnswer op true = .instruction := by
  simp [tableAnswer, (prefixedTable_form op).wellFormed]

/-- The only marker is 0xCB in the primary table (48_system.md R245). -/
theorem tableAnswer_eq_marker_iff (byte : Byte) (prefixed : Bool) :
    tableAnswer byte prefixed = .marker ↔ byte = 0xCB#8 ∧ prefixed = false := by
  cases prefixed with
  | true => simp
  | false =>
    simp only [and_true]
    revert byte
    decide

/-- The primary table holds 244 instructions, 11 absent entries and, by `tableAnswer_eq_marker_iff`, one marker. The table is a constant
of 256 entries: it is counted through. -/
theorem countP_tableAnswer_unprefixed :
    (List.range 256).countP (fun k => decide (tableAnswer (BitVec.ofNat 8 k) false = .instruction)) = 244 ∧
      (List.range 256).countP (fun k => decide (tableAnswer (BitVec.ofNat 8 k) false = .none)) = 11 := by
  decide +kernel

/-! ## Decoding an encoding -/

@[simp] theorem regOrHl_code (r : Reg8) (reg : Reg8 → Instr) (hl : Instr) : regOrHl r.code reg hl = reg r := by
  cases r <;> rfl

@[simp] theorem regOrHl_six (reg : Reg8 → Instr) (hl : Instr) : regOrHl 6#3 reg hl = hl := rfl

/-- An opcode byte put together from its fields has these fields (30_encoding.md R66). -/
theorem fields_append (x : BitVec 2) (y z : BitVec 3) :
    fieldX (x ++ y ++ z) = x ∧ fieldY (x ++ y ++ z) = y ∧ fieldZ (x ++ y ++ z) = z := by
  revert x y z
  decide

theorem prefixedTable_bit (b z : BitVec 3) : prefixedTable (1#2 ++ b ++ z) = regOrHl z (.bitR b) (.bitHl b) := by
  simp [prefixedTable, fields_append]

theorem prefixedTable_res (b z : BitVec 3) : prefixedTable (2#2 ++ b ++ z) = regOrHl z (.resR b) (.resHl b) := by
  simp [prefixedTable, fields_append]

theorem prefixedTable_set (b z : BitVec 3) : prefixedTable (3#2 ++ b ++ z) = regOrHl z (.setR b) (.setHl b) := by
  simp [prefixedTable, fields_append]

theorem decode_prefixed (op : Byte) (rest : List Byte) :
    decode (0xCB#8 :: op :: rest) = .ok (prefixedTable op, rest) := rfl

theorem decode_withWord {op : Byte} {f : Word → Instr} (h : primaryTable op = .opNN f) (nn : Word) (rest : List Byte) :
    decode (withWord op nn ++ rest) = .ok (f nn, rest) := by
  simp [decode, withWord, h]

/-- Bytes that start with an encoding decode to the instruction it encodes. The opcode byte is a constant once the codes of registers,
pairs and conditions are split into their values; immediate bytes and words, and the bit number of BIT, RES and SET, stay general. -/
theorem decode_encode (i : Instr) (rest : List Byte) (h : i.isPrefixRow = false) :
    decode (encode i ++ rest) = .ok (i, rest) := by
  cases i
  case prefixCb => cases h
  case addAR r | adcAR r | subR r | sbcAR r | andR r | xorR r | orR r | cpR r | incR r | decR r | ldRegN r _ |
      ldRegHl r | ldHlReg r | rlcR r | rrcR r | rlR r | rrR r | slaR r | sraR r | swapR r | srlR r =>
    cases r <;> rfl
  case ldReg rd rs => cases rd <;> cases rs <;> rfl
  case incRR p | decRR p | addHlRR p => cases p <;> rfl
  case pushPair q | popPair q => cases q <;> rfl
  case jrCcE cc _ | retCc cc => cases cc <;> rfl
  case rst t => rcases Machine.three_bits t with h | h | h | h | h | h | h | h <;> subst h <;> rfl
  case ldRRNn p nn => exact decode_withWord (by cases p <;> rfl) nn rest
  case jpCcNn cc nn | callCcNn cc nn => exact decode_withWord (by cases cc <;> rfl) nn rest
  case ldANn nn | ldNnA nn | ldNnSp nn | jpNn nn | callNn nn => exact decode_withWord rfl nn rest
  case bitR | bitHl => simp [encode, decode_prefixed, prefixedTable_bit]
  case resR | resHl => simp [encode, decode_prefixed, prefixedTable_res]
  case setR | setHl => simp [encode, decode_prefixed, prefixedTable_set]
  all_goals rfl

theorem length_encode_le (i : Instr) : (encode i).length ≤ 3 := by
  cases i <;> exact Nat.le_of_ble_eq_true rfl

end Sys2Proof
end

section
/-! SUPPORT. The reads a fetch makes, and the two outcomes of a step (30_encoding.md R63; 00_scope.md R11). -/

namespace Sys2Proof.Machine

open Sys2Proof.Claims

/-- Reading `m + n` bytes is reading `m` bytes, then `n` behind them. -/
theorem readBytes_add (m n : Nat) (addr : Word) (s : State) :
    readBytes (m + n) addr s =
      ((readBytes m addr s).1 ++ (readBytes n (addr + BitVec.ofNat 16 m) (readBytes m addr s).2).1,
        (readBytes n (addr + BitVec.ofNat 16 m) (readBytes m addr s).2).2) := by
  induction m generalizing addr s with
  | zero => simp [readBytes]
  | succ m ih =>
    have haddr : addr + BitVec.ofNat 16 (m + 1) = addr + 1#16 + BitVec.ofNat 16 m := by
      rw [BitVec.ofNat_add, BitVec.add_comm (BitVec.ofNat 16 m), BitVec.add_assoc]
    rw [haddr, Nat.add_right_comm]
    simp [readBytes, ih]

@[simp] theorem length_readBytes (n : Nat) (addr : Word) (s : State) : (readBytes n addr s).1.length = n := by
  induction n generalizing addr s with
  | zero => rfl
  | succ n ih => simp [readBytes, ih]

/-- Where the bytes from `pc` are an encoding, the three bytes from `pc` are that encoding and what is behind it. -/
theorem readBytes_three_of_encode {s : State} {i : Instr} (h : (readBytes (encode i).length s.pc s).1 = encode i) :
    ∃ rest, (readBytes 3 s.pc s).1 = encode i ++ rest ∧ 3 - rest.length = (encode i).length := by
  obtain ⟨k, hk⟩ := Nat.exists_eq_add_of_le (length_encode_le i)
  refine ⟨(readBytes k (s.pc + BitVec.ofNat 16 (encode i).length) (readBytes (encode i).length s.pc s).2).1, ?_, ?_⟩
  · rw [hk, readBytes_add, h]
  · rw [length_readBytes]
    omega

/-- The fetch gives what the three bytes from `pc` decode to, and records the reads of just the bytes the decoder used: the two consult the
same table, and each format leaves as many bytes as its fetch does not read. -/
theorem fetch_of_decode {s : State} {i : Instr} {rest : List Byte} (h : decode (readBytes 3 s.pc s).1 = .ok (i, rest)) :
    fetch s = (i, (readBytes (3 - rest.length) s.pc s).2) := by
  simp only [readBytes, decode] at h
  cases hp : primaryTable (busValue s.pc s)
  all_goals
    simp only [hp, Except.ok.injEq, Prod.mk.injEq] at h
    obtain ⟨rfl, rfl⟩ := h
    simp [fetch, hp, busReadWord, readBytes]

/-- The row PREFIX CB runs the prefixed table's entry for the byte behind it (48_system.md R245). -/
theorem exec_prefixCb (s : State) :
    exec .prefixCb s = exec (prefixedTable (busValue (s.pc + 1#16) s)) (busRead (s.pc + 1#16) s).2 :=
  execPrefixedEntry_eq _ _

theorem step_next_or_fault (s : State) :
    (∃ t, step s = .next t) ∨ ∃ byte prefixed, step s = .fault (.illegalOpcode byte prefixed) := by
  have hanswers := step_answers s
  cases h : step s with
  | next t => exact .inl ⟨t, rfl⟩
  | fault f =>
    obtain ⟨byte, prefixed⟩ := f
    exact .inr ⟨byte, prefixed, rfl⟩
  | refused r =>
    rw [h] at hanswers
    exact hanswers.elim

end Sys2Proof.Machine
end

section
/-! SUPPORT. The signal of every answer (60_exceptions.md R259). -/

namespace Sys2Proof.Claims

open Sys2Proof.Machine

/-- An answer's signal, where the answer is a next state. -/
def Signals (g : Signal) : Answer → Prop
  | .next t => t.signal = g
  | .fault _ => True
  | .refused _ => True

theorem signalOf_prefixedForm {i : Instr} (h : PrefixedForm i) : signalOf i = .none := by
  cases h <;> rfl

/-- Every meaning but that of PREFIX CB ends in a `commit` with the row's signal, on both branches where it has a
condition; an illegal row answers no next state. -/
theorem exec_signals_of_ne (i : Instr) (s : State) (h : i ≠ .prefixCb) : Signals (signalOf i) (exec i s) := by
  cases i
  case prefixCb => exact absurd rfl h
  case jpCcNn | jrCcE | callCcNn | retCc =>
    simp only [exec, execJpCcNn, execJrCcE, execCallCcNn, execRetCc]
    split <;> rfl
  case illegalD3 | illegalDB | illegalDD | illegalE3 | illegalE4 | illegalEB | illegalEC | illegalED | illegalF4 | illegalFC |
      illegalFD => trivial
  all_goals rfl

/-- Every row, PREFIX CB too: no entry it can select has a signal. -/
theorem exec_signals (i : Instr) (s : State) : Signals (signalOf i) (exec i s) := by
  by_cases h : i = .prefixCb
  · subst h
    have hform := prefixedTable_form (busValue (s.pc + 1#16) s)
    have hentry := exec_signals_of_ne _ (busRead (s.pc + 1#16) s).2 hform.ne_prefixCb
    rwa [signalOf_prefixedForm hform, ← exec_prefixCb] at hentry
  · exact exec_signals_of_ne i s h

end Sys2Proof.Claims
end

section
/-! SUPPORT. The flags after every answer (10_state.md section 7): what each ALU primitive does to the four flags, said once, then the
rows by the primitive they use. -/

namespace Sys2Proof.Claims

open Sys2Proof.Machine

/-- The four effects of a row, of the flags before and after. -/
def FlagRow.holds (row : FlagRow) (before after : Flags) : Prop :=
  row.z.holds before.z after.z ∧ row.n.holds before.n after.n ∧
    row.h.holds before.h after.h ∧ row.c.holds before.c after.c

/-- An answer's flags are as a row says, where the answer is a next state. -/
def FlagsFollow (row : FlagRow) (before : Flags) : Answer → Prop
  | .next t => row.holds before t.f
  | .fault _ => True
  | .refused _ => True

/-! ## The primitives -/

theorem add8_flags (f : Flags) (a v : Byte) (cin : Bool) :
    FlagRow.holds ⟨.computed, .cleared, .computed, .computed⟩ f (add8 a v cin).flags :=
  ⟨trivial, rfl, trivial, trivial⟩

theorem sub8_flags (f : Flags) (a v : Byte) (cin : Bool) :
    FlagRow.holds ⟨.computed, .isSet, .computed, .computed⟩ f (sub8 a v cin).flags :=
  ⟨trivial, rfl, trivial, trivial⟩

theorem logicResult_flags (f : Flags) (v : Byte) :
    FlagRow.holds ⟨.computed, .cleared, .cleared, .cleared⟩ f (logicResult v).flags :=
  ⟨trivial, rfl, rfl, rfl⟩

theorem inc8_flags (f : Flags) (v : Byte) :
    FlagRow.holds ⟨.computed, .cleared, .computed, .unchanged⟩ f (inc8 f v).flags :=
  ⟨trivial, rfl, trivial, rfl⟩

theorem dec8_flags (f : Flags) (v : Byte) :
    FlagRow.holds ⟨.computed, .isSet, .computed, .unchanged⟩ f (dec8 f v).flags :=
  ⟨trivial, rfl, trivial, rfl⟩

theorem inc16_flags (f : Flags) (w : Word) :
    FlagRow.holds ⟨.unchanged, .cleared, .computed, .unchanged⟩ f (inc16 f w).flags :=
  ⟨rfl, rfl, trivial, rfl⟩

theorem dec16_flags (f : Flags) (w : Word) :
    FlagRow.holds ⟨.unchanged, .isSet, .computed, .unchanged⟩ f (dec16 f w).flags :=
  ⟨rfl, rfl, trivial, rfl⟩

theorem add16_flags (f : Flags) (a b : Word) :
    FlagRow.holds ⟨.unchanged, .cleared, .computed, .computed⟩ f (add16 f a b).flags :=
  ⟨rfl, rfl, trivial, trivial⟩

/-- The accumulator rotates write C only. -/
theorem shiftResult_acc_flags (f : Flags) (v : Byte) (out : Bool) :
    FlagRow.holds ⟨.unchanged, .unchanged, .unchanged, .computed⟩ f (shiftResult f true v out).flags :=
  ⟨rfl, rfl, rfl, trivial⟩

theorem shiftResult_flags (f : Flags) (v : Byte) (out : Bool) :
    FlagRow.holds ⟨.computed, .cleared, .cleared, .computed⟩ f (shiftResult f false v out).flags :=
  ⟨trivial, rfl, rfl, trivial⟩

theorem bit8_flags (f : Flags) (b : BitVec 3) (v : Byte) :
    FlagRow.holds ⟨.computed, .cleared, .isSet, .unchanged⟩ f (bit8 f b v) :=
  ⟨trivial, rfl, rfl, rfl⟩

theorem daa8_flags (f : Flags) (v : Byte) :
    FlagRow.holds ⟨.computed, .unchanged, .cleared, .computed⟩ f (daa8 f v).flags :=
  ⟨trivial, rfl, rfl, trivial⟩

/-- An operation that does not write F follows the row of four dashes. -/
theorem kept_flags {f g : Flags} (h : g = f) :
    FlagRow.holds ⟨.unchanged, .unchanged, .unchanged, .unchanged⟩ f g := by
  subst h
  exact ⟨rfl, rfl, rfl, rfl⟩

/-! ## The rows -/

theorem flagsFollow_modify8 {row : FlagRow} {f : Flags} {op : Byte → Result8} (h : ∀ v, row.holds f (op v).flags)
    (loc : Loc8) (len : Word) (s : State) : FlagsFollow row f (modify8 op loc len s) :=
  h _

/-- Every row but PREFIX CB: the row's flags are those of the primitive its meaning uses, or F is not written. -/
theorem exec_flags_of_ne (i : Instr) (s : State) (h : i ≠ .prefixCb) : FlagsFollow (flagRow i) s.f (exec i s) := by
  cases i
  case prefixCb => exact absurd rfl h
  case addAR | addAHl | addAN | adcAR | adcAHl | adcAN => exact add8_flags _ _ _ _
  case subR | subHl | subN | sbcAR | sbcAHl | sbcAN | cpR | cpHl | cpN => exact sub8_flags _ _ _ _
  case andR | andHl | andN | xorR | xorHl | xorN | orR | orHl | orN => exact logicResult_flags _ _
  case incR | incHl => exact flagsFollow_modify8 (inc8_flags _) _ _ _
  case decR | decHl => exact flagsFollow_modify8 (dec8_flags _) _ _ _
  case incRR => exact inc16_flags _ _
  case decRR => exact dec16_flags _ _
  case addHlRR | addSpE | ldHlSpE => exact add16_flags _ _ _
  case rlca | rrca | rla | rra => exact flagsFollow_modify8 (fun _ => shiftResult_acc_flags _ _ _) _ _ _
  case rlcR | rlcHl | rrcR | rrcHl | rlR | rlHl | rrR | rrHl | slaR | slaHl | sraR | sraHl | srlR | srlHl =>
    exact flagsFollow_modify8 (fun _ => shiftResult_flags _ _ _) _ _ _
  case swapR | swapHl => exact flagsFollow_modify8 (fun _ => logicResult_flags _ _) _ _ _
  case bitR | bitHl => exact bit8_flags _ _ _
  case daa => exact daa8_flags _ _
  case cpl | scf => exact ⟨rfl, rfl, rfl, rfl⟩
  case ccf => exact ⟨rfl, rfl, rfl, trivial⟩
  case popAf => exact ⟨trivial, trivial, trivial, trivial⟩
  case resR | setR | ldReg | ldRegN | ldRegHl => exact kept_flags (State.setReg_f _ _ _)
  case popPair => exact kept_flags (State.setPair_f _ _ _)
  case ldRRNn => exact kept_flags (State.setRR_f _ _ _)
  case jpCcNn | jrCcE | callCcNn | retCc =>
    simp only [exec, execJpCcNn, execJrCcE, execCallCcNn, execRetCc]
    split <;> exact kept_flags rfl
  case illegalD3 | illegalDB | illegalDD | illegalE3 | illegalE4 | illegalEB | illegalEC | illegalED | illegalF4 | illegalFC |
      illegalFD => trivial
  all_goals exact kept_flags rfl

@[simp] theorem rowRun_prefixCb (s : State) : rowRun .prefixCb s = prefixedTable (busValue (s.pc + 1#16) s) := rfl

theorem rowRun_of_ne {i : Instr} (h : i ≠ .prefixCb) (s : State) : rowRun i s = i := if_neg h

/-- Every row, PREFIX CB as the entry it selects: the read of the byte behind it leaves the flags. -/
theorem exec_flags (i : Instr) (s : State) : FlagsFollow (flagRow (rowRun i s)) s.f (exec i s) := by
  by_cases h : i = .prefixCb
  · subst h
    rw [exec_prefixCb, rowRun_prefixCb]
    exact exec_flags_of_ne _ (busRead (s.pc + 1#16) s).2 (prefixedTable_form _).ne_prefixCb
  · rw [rowRun_of_ne h]
    exact exec_flags_of_ne i s h

end Sys2Proof.Claims
end

section
/-! The obligations of the scope family (00_scope.md). -/

namespace Sys2Proof.Proofs

open Sys2Proof.Machine Sys2Proof.Claims

/-- Settles O30: the prefixed table has only instructions, the primary table is counted, and no step is refused. -/
theorem decoderIsTotalAndStepHasTwoOutcomes : Obligations.DecoderIsTotalAndStepHasTwoOutcomes := by
  obtain ⟨hinstr, hnone⟩ := countP_tableAnswer_unprefixed
  refine ⟨?_, ?_, tableAnswer_eq_marker_iff, fun op => (prefixedTable_form op).wellFormed, step_next_or_fault⟩
  · simp [hinstr]
  · simp [hnone]

/-- Settles O31: the fetch is the decoder run over the bus. -/
theorem stepRunsDecodedInstruction : Obligations.StepRunsDecodedInstruction := by
  intro s i rest h
  rw [step, fetch_of_decode h]

/-- Settles O32: the bytes decode to the instruction they encode, and the step runs what they decode to. -/
theorem stepRunsEncodedInstruction : Obligations.StepRunsEncodedInstruction := by
  intro s i hi hbytes
  obtain ⟨rest, hthree, hlen⟩ := readBytes_three_of_encode hbytes
  have hdecode : decode (readBytes 3 s.pc s).1 = .ok (i, rest) := by rw [hthree, decode_encode i rest hi]
  rw [← hlen]
  exact stepRunsDecodedInstruction s i rest hdecode

/-- Settles O44, by the flags of every answer. -/
theorem flagsFollowTheSummaryTable : Obligations.FlagsFollowTheSummaryTable := by
  intro i s t h
  have hflags := exec_flags i s
  rwa [h] at hflags

/-- Settles O46, by the signal of every answer. -/
theorem onlyFiveInstructionsSignal : Obligations.OnlyFiveInstructionsSignal := by
  intro i s t h
  have hsignals := exec_signals i s
  rwa [h] at hsignals

end Sys2Proof.Proofs
end

section
/-! SUPPORT. The general registers, the flags byte and the stack (10_state.md R20 to R27; 40_alu_primitives.md R102). -/

namespace Sys2Proof.Machine

open Sys2Proof.Claims

/-! ## What an update leaves in the register file -/

@[simp] theorem busWrite_getReg (addr : Word) (v : Byte) (s : State) (r : Reg8) : (busWrite addr v s).getReg r = s.getReg r := rfl

theorem State.getReg_setReg_setReg (s : State) {p q r : Reg8} (x y : Byte) (h : r ∉ [p, q]) :
    ((s.setReg p x).setReg q y).getReg r = s.getReg r := by
  obtain ⟨hp, hq⟩ : r ≠ p ∧ r ≠ q := by simpa using h
  rw [getReg_setReg, if_neg hq, getReg_setReg, if_neg hp]

theorem State.getReg_setPair (s : State) {q : Pair} (w : Word) {r : Reg8} (h : r ∉ pairHalves q) :
    (s.setPair q w).getReg r = s.getReg r := by
  cases q with
  | bc => exact s.getReg_setReg_setReg (p := .b) (q := .c) (hiByte w) (loByte w) h
  | de => exact s.getReg_setReg_setReg (p := .d) (q := .e) (hiByte w) (loByte w) h
  | hl => exact s.getReg_setReg_setReg (p := .h) (q := .l) (hiByte w) (loByte w) h

theorem State.getReg_setRR (s : State) {p : RR} (w : Word) {r : Reg8} (h : r ∉ halves p) :
    (s.setRR p w).getReg r = s.getReg r := by
  cases p with
  | bc => exact s.getReg_setPair (q := .bc) w h
  | de => exact s.getReg_setPair (q := .de) w h
  | hl => exact s.getReg_setPair (q := .hl) w h
  | sp => rfl

/-! ## Pairs -/

@[simp] theorem State.getPair_setPair (s : State) (q : Pair) (w : Word) : (s.setPair q w).getPair q = w := by
  cases q <;> exact mkWord_hi_lo w

theorem State.getPair_setPair_of_ne (s : State) {q q' : Pair} (w : Word) (h : q' ≠ q) :
    (s.setPair q w).getPair q' = s.getPair q' := by
  cases q' <;> simp [State.getPair, h.symm]

/-! ## The flags byte -/

/-- The flags byte, bit by bit: Z, N, H, C and four zeros. -/
theorem flagsToByte_eq_append (f : Flags) :
    flagsToByte f = BitVec.ofBool f.z ++ BitVec.ofBool f.n ++ BitVec.ofBool f.h ++ BitVec.ofBool f.c ++ 0#4 := by
  obtain ⟨z, n, h, c⟩ := f
  revert z n h c
  decide

theorem flagsToByte_toNat (f : Flags) :
    (flagsToByte f).toNat = 128 * f.z.toNat + 64 * f.n.toNat + 32 * f.h.toNat + 16 * f.c.toNat := by
  obtain ⟨z, n, h, c⟩ := f
  revert z n h c
  decide

@[simp] theorem flagsToByte_flagsFromByte (x : Byte) : flagsToByte (flagsFromByte x) = x &&& 0xF0#8 := by
  revert x
  decide

@[simp] theorem flagsFromByte_flagsToByte (f : Flags) : flagsFromByte (flagsToByte f) = f := by
  obtain ⟨z, n, h, c⟩ := f
  revert z n h c
  decide

/-! ## The stack -/

theorem push16_eq_pushed (w : Word) (s : State) : push16 w s = pushed w s := by
  have haddr : s.sp - 2#16 + 1#16 = s.sp - 1#16 := by bv_omega
  rw [push16_eq, haddr]
  rfl

theorem pushed_bus (w : Word) (s : State) :
    (pushed w s).bus = .write (s.sp - 2#16) (loByte w) :: .write (s.sp - 1#16) (hiByte w) :: s.bus := rfl

theorem exec_pushAf (s : State) :
    exec .pushAf s = .next (goes (s.pc + 1#16) .none (pushed (mkWord s.a (flagsToByte s.f)) s)) :=
  congrArg (fun t => Host.Outcome.next (State.commit t (s.pc + 1#16) .none)) (push16_eq_pushed _ s)

theorem exec_popAf (s : State) :
    exec .popAf s =
      .next (goes (s.pc + 1#16) .none
        { popped s with a := hiByte (stackTop s), f := flagsFromByte (loByte (stackTop s)) }) := rfl

end Sys2Proof.Machine
end

section
/-! SUPPORT. What every answer leaves in `pc`, `sp` and the general registers (30_encoding.md R65; 10_state.md R20, R29), row by row. -/

namespace Sys2Proof.Claims

open Sys2Proof.Machine

/-- A property of the next state, where an answer is one. -/
def Ensures (P : State → Prop) : Answer → Prop
  | .next t => P t
  | .fault _ => True
  | .refused _ => True

theorem Ensures.imp {P Q : State → Prop} {x : Answer} (h : Ensures P x) (hPQ : ∀ t, P t → Q t) : Ensures Q x := by
  cases x with
  | next t => exact hPQ t h
  | fault | refused => trivial

theorem Ensures.of_eq_next {P : State → Prop} {x : Answer} {t : State} (h : Ensures P x) (hx : x = .next t) : P t := by
  rwa [hx] at h

theorem Ensures.ite {P : State → Prop} (c : Bool) {x y : Answer} (hx : Ensures P x) (hy : Ensures P y) :
    Ensures P (if c then x else y) := by
  cases c
  · exact hy
  · exact hx

/-- What every other row ensures holds of PREFIX CB too, if it carries over from the entry that PREFIX CB selects. -/
theorem ensures_of_rows {P : Instr → State → State → Prop} (hrow : ∀ i s, i ≠ .prefixCb → Ensures (P i s) (exec i s))
    (hprefix : ∀ s t, P (prefixedTable (busValue (s.pc + 1#16) s)) (busRead (s.pc + 1#16) s).2 t → P .prefixCb s t)
    (i : Instr) (s : State) : Ensures (P i s) (exec i s) := by
  by_cases h : i = .prefixCb
  · rw [h, exec_prefixCb]
    exact (hrow _ _ (prefixedTable_form _).ne_prefixCb).imp (hprefix s)
  · exact hrow i s h

/-! ## pc -/

theorem nextPc_prefixedForm {i : Instr} (h : PrefixedForm i) (s : State) : nextPc i s = s.pc + 2#16 := by
  cases h <;> rfl

/-- The target of RST as a number (47_control_flow.md R230). -/
theorem rst_target (n : BitVec 3) : 8#16 * n.zeroExtend 16 = BitVec.ofNat 16 (8 * n.toNat) := by
  revert n
  decide

/-- Every row but PREFIX CB: each meaning ends in a `commit` of the address past its bytes or of its target. -/
theorem exec_pc_of_ne (i : Instr) (s : State) (h : i ≠ .prefixCb) : Ensures (fun t => t.pc = nextPc i s) (exec i s) := by
  cases i
  case prefixCb => exact absurd rfl h
  case jpCcNn | jrCcE | callCcNn | retCc =>
    simp only [exec, execJpCcNn, execJrCcE, execCallCcNn, execRetCc, nextPc]
    split <;> rfl
  case rst n => exact rst_target n
  case illegalD3 | illegalDB | illegalDD | illegalE3 | illegalE4 | illegalEB | illegalEC | illegalED | illegalF4 | illegalFC |
      illegalFD => trivial
  all_goals rfl

theorem exec_pc (i : Instr) (s : State) : Ensures (fun t => t.pc = nextPc i s) (exec i s) :=
  ensures_of_rows exec_pc_of_ne (fun _ _ ht => ht.trans (nextPc_prefixedForm (prefixedTable_form _) _)) i s

/-! ## sp -/

theorem writesSp_prefixedForm {i : Instr} (h : PrefixedForm i) : writesSp i = false := by
  cases h <;> rfl

theorem modify8_sp (op : Byte → Result8) (loc : Loc8) (len : Word) (s : State) :
    Ensures (fun t => t.sp = s.sp) (modify8 op loc len s) := by
  cases loc with
  | reg r => exact State.setReg_sp s r _
  | hlInd => rfl

/-- Every row but PREFIX CB: one that is not on the list (10_state.md R29) writes other fields only. -/
theorem exec_sp_of_ne (i : Instr) (s : State) (h : i ≠ .prefixCb) :
    Ensures (fun t => writesSp i = false → t.sp = s.sp) (exec i s) := by
  cases i
  case prefixCb => exact absurd rfl h
  case ldRRNn p _ | incRR p | decRR p =>
    cases p with
    | sp => exact nofun
    | bc | de | hl => exact fun _ => rfl
  case ldSpHl | addSpE | pushPair | pushAf | popPair | popAf | callNn | ret | reti | rst => exact nofun
  case callCcNn | retCc => exact Ensures.ite _ nofun nofun
  case incR | incHl | decR | decHl | rlcR | rlcHl | rrcR | rrcHl | rlR | rlHl | rrR | rrHl | slaR | slaHl | sraR | sraHl | swapR |
      swapHl | srlR | srlHl => exact (modify8_sp _ _ _ _).imp fun _ ht _ => ht
  case resR | setR | ldReg | ldRegN | ldRegHl => exact fun _ => State.setReg_sp _ _ _
  case jpCcNn | jrCcE => exact Ensures.ite _ (fun _ => rfl) (fun _ => rfl)
  case illegalD3 | illegalDB | illegalDD | illegalE3 | illegalE4 | illegalEB | illegalEC | illegalED | illegalF4 | illegalFC |
      illegalFD => trivial
  all_goals exact fun _ => rfl

theorem exec_sp (i : Instr) (s : State) : Ensures (fun t => writesSp i = false → t.sp = s.sp) (exec i s) :=
  ensures_of_rows exec_sp_of_ne (fun _ _ ht _ => ht (writesSp_prefixedForm (prefixedTable_form _))) i s

/-! ## The general registers -/

/-- Every general register that is not listed has the same value in both states. -/
def KeepsRegsBut (written : List Reg8) (s t : State) : Prop := ∀ r, r ∉ written → t.getReg r = s.getReg r

theorem keepsRegsBut_setReg (s : State) (r : Reg8) (v : Byte) : KeepsRegsBut [r] s (s.setReg r v) := by
  intro q hq
  rw [State.getReg_setReg, if_neg (List.ne_of_not_mem_cons hq)]

/-- The registers written where an operand is replaced: none for the byte at HL. -/
def operandRegs : Loc8 → List Reg8
  | .reg r => [r]
  | .hlInd => []

theorem keeps_intoA (r : Result8) (len : Word) {s t : State} (h : ∀ q, t.getReg q = s.getReg q) :
    Ensures (KeepsRegsBut [.a] s) (intoA r len t) :=
  fun q hq => (keepsRegsBut_setReg t .a r.value q hq).trans (h q)

theorem write8_getReg {loc : Loc8} (v : Byte) (s : State) {q : Reg8} (hq : q ∉ operandRegs loc) :
    (write8 loc v s).getReg q = s.getReg q := by
  cases loc with
  | reg r => exact keepsRegsBut_setReg s r v q hq
  | hlInd => exact busWrite_getReg s.hl v s q

theorem keeps_modify8 (op : Byte → Result8) (loc : Loc8) (len : Word) (s : State) :
    Ensures (KeepsRegsBut (operandRegs loc) s) (modify8 op loc len s) :=
  fun q hq => (write8_getReg _ _ hq).trans (read8_getReg loc s q)

theorem keeps_modifyBits (op : Byte → Byte) (loc : Loc8) (s : State) :
    Ensures (KeepsRegsBut (operandRegs loc) s) (modifyBits op loc s) :=
  fun q hq => (write8_getReg _ _ hq).trans (read8_getReg loc s q)

theorem keeps_testBit (b : BitVec 3) (loc : Loc8) (s : State) : Ensures (KeepsRegsBut [] s) (testBit b loc s) :=
  fun q _ => read8_getReg loc s q

theorem keeps_compareA (src : Loc8) (s : State) : Ensures (KeepsRegsBut [] s) (compareA src s) :=
  fun q _ => read8_getReg src s q

theorem keeps_intoRR (p : RR) (r : Result16) (len : Word) (s : State) :
    Ensures (KeepsRegsBut (halves p) s) (intoRR p r len s) :=
  fun _ hq => s.getReg_setRR r.value hq

theorem keeps_loadFrom (r : Reg8) (addr len : Word) (s : State) : Ensures (KeepsRegsBut [r] s) (loadFrom r addr len s) :=
  fun q hq => keepsRegsBut_setReg (busRead addr s).2 r _ q hq

theorem keeps_storeTo (addr : Word) (v : Byte) (len : Word) (s : State) :
    Ensures (KeepsRegsBut [] s) (storeTo addr v len s) :=
  fun q _ => busWrite_getReg addr v s q

theorem keeps_storeAThenHl (newHl : Word) (s : State) : Ensures (KeepsRegsBut [.h, .l] s) (storeAThenHl newHl s) :=
  fun _ hq => State.getReg_setPair (busWrite s.hl s.a s) (q := .hl) newHl hq

theorem keeps_loadAThenHl (newHl : Word) (s : State) : Ensures (KeepsRegsBut [.a, .h, .l] s) (loadAThenHl newHl s) := by
  intro q hq
  have ha : q ∉ [.a] := List.not_mem_cons_of_ne_of_not_mem (List.ne_of_not_mem_cons hq) List.not_mem_nil
  have hhl : q ∉ pairHalves .hl := List.not_mem_of_not_mem_cons hq
  have hpair := State.getReg_setPair ((busRead s.hl s).2.setReg .a (busRead s.hl s).1) (q := .hl) newHl hhl
  exact hpair.trans (keepsRegsBut_setReg (busRead s.hl s).2 .a _ q ha)

theorem keeps_jumpTo (target : Word) (s : State) : Ensures (KeepsRegsBut [] s) (jumpTo target s) := fun _ _ => rfl

theorem keeps_callTo (target back : Word) (s : State) : Ensures (KeepsRegsBut [] s) (callTo target back s) :=
  fun q _ => push16_getReg back s q

theorem keeps_returnWith (g : Signal) (s : State) : Ensures (KeepsRegsBut [] s) (returnWith g s) :=
  fun q _ => pop16_getReg s q

/-- Every row but PREFIX CB: a meaning writes no register, one register, the halves of a pair, or A and HL. -/
theorem exec_regs_of_ne (i : Instr) (s : State) (h : i ≠ .prefixCb) :
    Ensures (KeepsRegsBut (registersWritten i) s) (exec i s) := by
  cases i
  case prefixCb => exact absurd rfl h
  case addAR | addAHl | addAN | adcAR | adcAHl | adcAN | subR | subHl | subN | sbcAR | sbcAHl | sbcAN | andR | andHl | andN | xorR |
      xorHl | xorN | orR | orHl | orN | daa | cpl => exact keeps_intoA _ _ fun _ => rfl
  case cpR | cpHl => exact keeps_compareA _ _
  case incR | decR | rlcR | rrcR | rlR | rrR | slaR | sraR | swapR | srlR => exact keeps_modify8 _ (.reg _) _ _
  case rlca | rrca | rla | rra => exact keeps_modify8 _ (.reg .a) _ _
  case incHl | decHl | rlcHl | rrcHl | rlHl | rrHl | slaHl | sraHl | swapHl | srlHl => exact keeps_modify8 _ .hlInd _ _
  case resR | setR => exact keeps_modifyBits _ (.reg _) _
  case resHl | setHl => exact keeps_modifyBits _ .hlInd _
  case bitR | bitHl => exact keeps_testBit _ _ _
  case incRR p | decRR p => exact keeps_intoRR p _ _ _
  case addHlRR | ldHlSpE => exact keeps_intoRR .hl _ _ _
  case addSpE => exact keeps_intoRR .sp _ _ _
  case ldReg | ldRegN => exact keepsRegsBut_setReg _ _ _
  case ldRegHl | ldABc | ldADe | ldANn | ldhAN | ldAC => exact keeps_loadFrom _ _ _ _
  case ldHlReg | ldHlN | ldBcA | ldDeA | ldNnA | ldhNA | ldCA => exact keeps_storeTo _ _ _ _
  case ldHlIncA | ldHlDecA => exact keeps_storeAThenHl _ _
  case ldAHlInc | ldAHlDec => exact keeps_loadAThenHl _ _
  case ldRRNn => exact fun _ hq => s.getReg_setRR _ hq
  case ldNnSp nn =>
    exact fun q _ => (busWrite_getReg (nn + 1#16) (hiByte s.sp) _ q).trans (busWrite_getReg nn (loByte s.sp) s q)
  case pushPair p => exact fun q _ => push16_getReg (s.getPair p) s q
  case pushAf => exact fun q _ => push16_getReg (mkWord s.a (flagsToByte s.f)) s q
  case popPair => exact fun _ hq => (State.getReg_setPair _ _ hq).trans (pop16_getReg s _)
  case popAf => exact fun q hq => (keepsRegsBut_setReg (pop16 s).2 .a _ q hq).trans (pop16_getReg s q)
  case jpNn | jpHl | jrE => exact keeps_jumpTo _ _
  case jpCcNn | jrCcE => exact Ensures.ite _ (keeps_jumpTo _ _) (keeps_jumpTo _ _)
  case callNn | rst => exact keeps_callTo _ _ _
  case callCcNn => exact Ensures.ite _ (keeps_callTo _ _ _) (keeps_jumpTo _ _)
  case ret | reti => exact keeps_returnWith _ _
  case retCc => exact Ensures.ite _ (keeps_returnWith _ _) (keeps_jumpTo _ _)
  case illegalD3 | illegalDB | illegalDD | illegalE3 | illegalE4 | illegalEB | illegalEC | illegalED | illegalF4 | illegalFC |
      illegalFD => trivial
  all_goals exact fun _ _ => rfl

theorem exec_regs (i : Instr) (s : State) : Ensures (KeepsRegsBut (registersWritten (rowRun i s)) s) (exec i s) := by
  refine ensures_of_rows (P := fun i s => KeepsRegsBut (registersWritten (rowRun i s)) s) (fun i s h => ?_) (fun s t ht => ?_) i s
  · rw [rowRun_of_ne h]
    exact exec_regs_of_ne i s h
  · rwa [rowRun_of_ne (prefixedTable_form _).ne_prefixCb] at ht

end Sys2Proof.Claims
end

section
/-! SUPPORT. No hidden state (10_state.md R31): two runs in lockstep, that is with the same core and, while they read, the same answers. What
each operation of the model keeps of that, said once, then the meanings by the operations they use. -/

namespace Sys2Proof.Machine

open Sys2Proof.Claims

/-! ## Two states in lockstep -/

/-- Runs from `s₀` and `t₀` that have come to `s` and `t` with the same core and by the same transactions. -/
structure Lockstep (s₀ t₀ s t : State) : Prop where
  core : sameCore s t
  history : ∃ events : List BusEvent, s.bus = events ++ s₀.bus ∧ t.bus = events ++ t₀.bus

/-- Such runs before their first write: STOP_LEN and all answers to further reads agree too. A write may end this, and no meaning reads
after it writes (20_memory.md R46). -/
structure ReadLockstep (s₀ t₀ s t : State) : Prop extends Lockstep s₀ t₀ s t where
  stopLen : s.config.stopLen = t.config.stopLen
  answers : ∀ (reads : List BusEvent) (addr : Word), (∀ e ∈ reads, isRead e = true) →
    answerAfter s reads addr = answerAfter t reads addr

/-- Two answers agree: the same fault, or next states in lockstep with the same signal. -/
def AnswersAgree (s₀ t₀ : State) : Answer → Answer → Prop
  | .next s, .next t => Lockstep s₀ t₀ s t ∧ s.signal = t.signal
  | .fault f, .fault g => f = g
  | _, _ => False

/-- The core of `s` beside the memory, history, signal and configuration of `w`. What a meaning computes from the core alone is by
definition the same in `s` and in `s.beside w`. -/
def State.beside (s w : State) : State :=
  { s with mem := w.mem, bus := w.bus, signal := w.signal, config := w.config }

theorem exists_eq_beside {s t : State} (h : sameCore s t) : ∃ w, t = s.beside w := by
  obtain ⟨hreg, hf, hsp, hpc⟩ := h
  refine ⟨t, ?_⟩
  cases t
  simp only [State.beside, State.mk.injEq, and_true]
  exact ⟨(hreg .a).symm, (hreg .b).symm, (hreg .c).symm, (hreg .d).symm, (hreg .e).symm, (hreg .h).symm, (hreg .l).symm,
    hf.symm, hsp.symm, hpc.symm⟩

theorem AnswersAgree.eq_fault {s₀ t₀ : State} {f : Fault} {y : Answer} (h : AnswersAgree s₀ t₀ (.fault f) y) : y = .fault f := by
  cases y with
  | fault g => exact congrArg _ h.symm
  | next | refused => exact h.elim

theorem AnswersAgree.eq_next {s₀ t₀ s : State} {y : Answer} (h : AnswersAgree s₀ t₀ (.next s) y) :
    ∃ t, y = .next t ∧ Lockstep s₀ t₀ s t ∧ s.signal = t.signal := by
  cases y with
  | next t => exact ⟨t, rfl, h⟩
  | fault | refused => exact h.elim

section
variable {s₀ t₀ s t : State}

/-! ## What updates, writes and reads keep -/

theorem Lockstep.getReg_eq (h : Lockstep s₀ t₀ s t) (r : Reg8) : s.getReg r = t.getReg r := h.core.1 r

theorem Lockstep.hl_eq (h : Lockstep s₀ t₀ s t) : s.hl = t.hl := congrArg₂ mkWord (h.getReg_eq .h) (h.getReg_eq .l)

theorem Lockstep.sp_eq (h : Lockstep s₀ t₀ s t) : s.sp = t.sp := h.core.2.2.1

theorem Lockstep.pc_eq (h : Lockstep s₀ t₀ s t) : s.pc = t.pc := h.core.2.2.2

theorem Lockstep.setReg (h : Lockstep s₀ t₀ s t) (r : Reg8) (v : Byte) : Lockstep s₀ t₀ (s.setReg r v) (t.setReg r v) := by
  obtain ⟨⟨hreg, hf, hsp, hpc⟩, hbus⟩ := h
  exact ⟨⟨fun q => by simp [hreg], by simpa, by simpa, by simpa⟩, by simpa⟩

theorem Lockstep.setPair (h : Lockstep s₀ t₀ s t) (q : Pair) (w : Word) : Lockstep s₀ t₀ (s.setPair q w) (t.setPair q w) := by
  cases q with
  | bc => exact (h.setReg .b (hiByte w)).setReg .c (loByte w)
  | de => exact (h.setReg .d (hiByte w)).setReg .e (loByte w)
  | hl => exact (h.setReg .h (hiByte w)).setReg .l (loByte w)

theorem Lockstep.setSp (h : Lockstep s₀ t₀ s t) (w : Word) : Lockstep s₀ t₀ { s with sp := w } { t with sp := w } := by
  obtain ⟨⟨hreg, hf, hsp, hpc⟩, hbus⟩ := h
  exact ⟨⟨hreg, hf, rfl, hpc⟩, hbus⟩

theorem Lockstep.setRR (h : Lockstep s₀ t₀ s t) (p : RR) (w : Word) : Lockstep s₀ t₀ (s.setRR p w) (t.setRR p w) := by
  cases p with
  | bc => exact h.setPair .bc w
  | de => exact h.setPair .de w
  | hl => exact h.setPair .hl w
  | sp => exact h.setSp w

theorem Lockstep.setFlags (h : Lockstep s₀ t₀ s t) (f : Flags) : Lockstep s₀ t₀ (s.setFlags f) (t.setFlags f) := by
  obtain ⟨⟨hreg, hf, hsp, hpc⟩, hbus⟩ := h
  exact ⟨⟨hreg, rfl, hsp, hpc⟩, hbus⟩

/-- Two meanings that end in lockstep and commit the same `pc` and signal agree. -/
theorem Lockstep.commit (h : Lockstep s₀ t₀ s t) {p q : Word} (hpq : p = q) (g : Signal) :
    AnswersAgree s₀ t₀ (.next (s.commit p g)) (.next (t.commit q g)) := by
  obtain ⟨⟨hreg, hf, hsp, hpc⟩, hbus⟩ := h
  exact ⟨⟨⟨hreg, hf, hsp, hpq⟩, hbus⟩, rfl⟩

theorem Lockstep.busWrite (h : Lockstep s₀ t₀ s t) (addr : Word) (v : Byte) :
    Lockstep s₀ t₀ (busWrite addr v s) (busWrite addr v t) := by
  obtain ⟨⟨hreg, hf, hsp, hpc⟩, events, hs, ht⟩ := h
  exact ⟨⟨hreg, hf, hsp, hpc⟩, .write addr v :: events, congrArg _ hs, congrArg _ ht⟩

theorem Lockstep.write8 (h : Lockstep s₀ t₀ s t) (loc : Loc8) (v : Byte) : Lockstep s₀ t₀ (write8 loc v s) (write8 loc v t) := by
  cases loc with
  | reg r => exact h.setReg r v
  | hlInd =>
    simp only [Machine.write8, h.hl_eq]
    exact h.busWrite _ v

theorem Lockstep.push16 (h : Lockstep s₀ t₀ s t) (w : Word) : Lockstep s₀ t₀ (push16 w s) (push16 w t) := by
  simp only [push16_eq, h.sp_eq]
  exact ((h.setSp _).busWrite _ _).busWrite _ _

theorem ReadLockstep.busValue (h : ReadLockstep s₀ t₀ s t) (addr : Word) : busValue addr s = busValue addr t :=
  h.answers [] addr (List.forall_mem_nil _)

/-- An answer after one more read is an answer with that read as the oldest of the reads. -/
theorem answerAfter_busRead (s : State) (reads : List BusEvent) (addr other : Word) :
    answerAfter (busRead other s).2 reads addr = answerAfter s (reads ++ [.read other (Machine.busValue other s)]) addr := by
  simp only [answerAfter, busRead_bus, List.append_assoc, List.singleton_append]
  rfl

theorem ReadLockstep.busRead (h : ReadLockstep s₀ t₀ s t) (addr : Word) :
    ReadLockstep s₀ t₀ (busRead addr s).2 (busRead addr t).2 := by
  have hvalue := h.busValue addr
  obtain ⟨⟨⟨hreg, hf, hsp, hpc⟩, events, hs, ht⟩, hstop, hanswers⟩ := h
  refine ⟨⟨⟨hreg, hf, hsp, hpc⟩, .read addr (Machine.busValue addr s) :: events, ?_, ?_⟩, hstop, fun reads other hreads => ?_⟩
  · simp [hs]
  · simp [ht, hvalue]
  · rw [answerAfter_busRead, answerAfter_busRead, ← hvalue]
    refine hanswers _ other fun e he => ?_
    rcases List.mem_append.mp he with he | he
    · exact hreads e he
    · rw [List.mem_singleton.mp he]
      rfl

theorem ReadLockstep.read8 (h : ReadLockstep s₀ t₀ s t) (loc : Loc8) :
    (read8 loc s).1 = (read8 loc t).1 ∧ ReadLockstep s₀ t₀ (read8 loc s).2 (read8 loc t).2 := by
  cases loc with
  | reg r => exact ⟨h.getReg_eq r, h⟩
  | hlInd =>
    simp only [Machine.read8, h.hl_eq]
    exact ⟨h.busValue _, h.busRead _⟩

theorem ReadLockstep.busReadWord (h : ReadLockstep s₀ t₀ s t) (addr : Word) :
    (busReadWord addr s).1 = (busReadWord addr t).1 ∧ ReadLockstep s₀ t₀ (busReadWord addr s).2 (busReadWord addr t).2 :=
  ⟨congrArg₂ mkWord ((h.busRead addr).busValue _) (h.busValue addr), (h.busRead addr).busRead _⟩

theorem ReadLockstep.pop16 (h : ReadLockstep s₀ t₀ s t) :
    (pop16 s).1 = (pop16 t).1 ∧ Lockstep s₀ t₀ (pop16 s).2 (pop16 t).2 := by
  obtain ⟨hword, hread⟩ := h.busReadWord t.sp
  simp only [pop16_eq, h.sp_eq]
  exact ⟨hword, hread.toLockstep.setSp _⟩

/-- The two fetches give the same instruction: the bytes they read are the same. -/
theorem ReadLockstep.fetch (h : ReadLockstep s₀ t₀ s t) :
    (fetch s).1 = (fetch t).1 ∧ ReadLockstep s₀ t₀ (fetch s).2 (fetch t).2 := by
  have h1 := h.busRead t.pc
  have hvalue := h.busValue t.pc
  cases hentry : primaryTable (Machine.busValue t.pc t)
  all_goals simp only [Machine.fetch, busRead_value, h.pc_eq, hvalue, hentry]
  case op | absent => exact ⟨trivial, h1⟩
  case opN f => exact ⟨congrArg f (h1.busValue _), h1.busRead _⟩
  case opNN f =>
    obtain ⟨hword, hread⟩ := h1.busReadWord (t.pc + 1#16)
    exact ⟨congrArg f hword, hread⟩
  case prefixMark => exact ⟨congrArg prefixedTable (h1.busValue _), h1.busRead _⟩

end

/-! ## The meanings -/

section
variable {s₀ t₀ s w : State} (h : ReadLockstep s₀ t₀ s (s.beside w))
include h

theorem agree_accumulate (op : Byte → Byte → Result8) (src : Loc8) :
    AnswersAgree s₀ t₀ (accumulate op src s) (accumulate op src (s.beside w)) := by
  obtain ⟨hv, hread⟩ := h.read8 src
  simp only [accumulate_eq, hv, read8_pc]
  exact ((hread.setReg _ _).setFlags _).commit rfl _

theorem agree_compareA (src : Loc8) : AnswersAgree s₀ t₀ (compareA src s) (compareA src (s.beside w)) := by
  obtain ⟨hv, hread⟩ := h.read8 src
  simp only [compareA_eq, hv, read8_pc]
  exact (hread.setFlags _).commit rfl _

theorem agree_modify8 (op : Byte → Result8) (loc : Loc8) (len : Word) :
    AnswersAgree s₀ t₀ (modify8 op loc len s) (modify8 op loc len (s.beside w)) := by
  obtain ⟨hv, hread⟩ := h.read8 loc
  simp only [modify8_eq, hv]
  exact ((hread.write8 loc _).setFlags _).commit rfl _

theorem agree_modifyBits (op : Byte → Byte) (loc : Loc8) :
    AnswersAgree s₀ t₀ (modifyBits op loc s) (modifyBits op loc (s.beside w)) := by
  obtain ⟨hv, hread⟩ := h.read8 loc
  simp only [modifyBits_eq, hv]
  exact (hread.write8 loc _).commit rfl _

theorem agree_testBit (b : BitVec 3) (loc : Loc8) : AnswersAgree s₀ t₀ (testBit b loc s) (testBit b loc (s.beside w)) := by
  obtain ⟨hv, hread⟩ := h.read8 loc
  simp only [testBit_eq, hv, read8_pc]
  exact (hread.setFlags _).commit rfl _

theorem agree_loadFrom (r : Reg8) (addr len : Word) :
    AnswersAgree s₀ t₀ (loadFrom r addr len s) (loadFrom r addr len (s.beside w)) := by
  simp only [loadFrom_eq, h.busValue addr]
  exact ((h.busRead addr).setReg r _).commit rfl _

theorem agree_loadAThenHl (newHl : Word) : AnswersAgree s₀ t₀ (loadAThenHl newHl s) (loadAThenHl newHl (s.beside w)) := by
  simp only [loadAThenHl, busRead_value, h.busValue s.hl]
  exact (((h.busRead s.hl).setReg .a _).setPair .hl newHl).commit rfl _

theorem agree_jumpTo (target : Word) : AnswersAgree s₀ t₀ (jumpTo target s) (jumpTo target (s.beside w)) :=
  h.commit rfl _

theorem agree_callTo (target back : Word) : AnswersAgree s₀ t₀ (callTo target back s) (callTo target back (s.beside w)) :=
  (h.push16 back).commit rfl _

theorem agree_returnWith (g : Signal) : AnswersAgree s₀ t₀ (returnWith g s) (returnWith g (s.beside w)) :=
  h.pop16.2.commit h.pop16.1 g

end

/-- A condition reads F, so both runs take the same branch. -/
theorem agree_ite {s₀ t₀ : State} (c : Bool) {x y x' y' : Answer} (hx : AnswersAgree s₀ t₀ x x') (hy : AnswersAgree s₀ t₀ y y') :
    AnswersAgree s₀ t₀ (if c then x else y) (if c then x' else y') := by
  cases c
  · exact hy
  · exact hx

/-- Every row but PREFIX CB: it reads at most at the start, so both runs get the same operands, and computes from the core and these. -/
theorem exec_agree_of_ne {s₀ t₀ s t : State} (h : ReadLockstep s₀ t₀ s t) (i : Instr) (hi : i ≠ .prefixCb) :
    AnswersAgree s₀ t₀ (exec i s) (exec i t) := by
  obtain ⟨w, rfl⟩ := exists_eq_beside h.core
  cases i
  case prefixCb => exact absurd rfl hi
  case addAR | addAHl => exact agree_accumulate h (fun a v => add8 a v false) _
  case adcAR | adcAHl => exact agree_accumulate h (fun a v => add8 a v s.f.c) _
  case subR | subHl => exact agree_accumulate h (fun a v => sub8 a v false) _
  case sbcAR | sbcAHl => exact agree_accumulate h (fun a v => sub8 a v s.f.c) _
  case andR | andHl | xorR | xorHl | orR | orHl => exact agree_accumulate h _ _
  case addAN | adcAN | subN | sbcAN | andN | xorN | orN | daa | cpl => exact ((h.setReg .a _).setFlags _).commit rfl _
  case cpR | cpHl => exact agree_compareA h _
  case cpN | scf | ccf => exact (h.setFlags _).commit rfl _
  case incR | incHl | decR | decHl | rlca | rrca | rla | rra | rlcR | rlcHl | rrcR | rrcHl | rlR | rlHl | rrR | rrHl | slaR |
      slaHl | sraR | sraHl | swapR | swapHl | srlR | srlHl => exact agree_modify8 h _ _ _
  case bitR | bitHl => exact agree_testBit h _ _
  case resR | resHl | setR | setHl => exact agree_modifyBits h _ _
  case incRR | decRR | addHlRR | addSpE | ldHlSpE => exact ((h.setRR _ _).setFlags _).commit rfl _
  case ldReg | ldRegN => exact (h.setReg _ _).commit rfl _
  case ldRegHl | ldABc | ldADe | ldANn | ldhAN | ldAC => exact agree_loadFrom h _ _ _
  case ldHlReg | ldHlN | ldBcA | ldDeA | ldNnA | ldhNA | ldCA => exact (h.busWrite _ _).commit rfl _
  case ldHlIncA | ldHlDecA => exact ((h.busWrite _ _).setPair .hl _).commit rfl _
  case ldAHlInc | ldAHlDec => exact agree_loadAThenHl h _
  case ldRRNn | ldSpHl => exact (h.setRR _ _).commit rfl _
  case ldNnSp => exact ((h.busWrite _ _).busWrite _ _).commit rfl _
  case pushPair | pushAf => exact (h.push16 _).commit rfl _
  case popPair q =>
    obtain ⟨hw, hpop⟩ := h.pop16
    simp only [exec, execPopPair, hw]
    exact (hpop.setPair q _).commit rfl _
  case popAf =>
    obtain ⟨hw, hpop⟩ := h.pop16
    simp only [exec, execPopAf, hw]
    exact ((hpop.setReg .a _).setFlags _).commit rfl _
  case jpNn | jpHl | jrE => exact agree_jumpTo h _
  case jpCcNn cc _ | jrCcE cc _ => exact agree_ite (condHolds s.f cc) (agree_jumpTo h _) (agree_jumpTo h _)
  case callNn | rst => exact agree_callTo h _ _
  case callCcNn cc _ => exact agree_ite (condHolds s.f cc) (agree_callTo h _ _) (agree_jumpTo h _)
  case ret | reti => exact agree_returnWith h _
  case retCc cc => exact agree_ite (condHolds s.f cc) (agree_returnWith h _) (agree_jumpTo h _)
  case nop | halt | di | ei => exact h.commit rfl _
  case stop => exact h.commit (congrArg (fun len => s.pc + StopLen.toWord len) h.stopLen) _
  all_goals rfl

/-- Every row of runs in lockstep: PREFIX CB reads the same byte in both and selects the same entry. -/
theorem exec_agree {s₀ t₀ s t : State} (h : ReadLockstep s₀ t₀ s t) (i : Instr) :
    AnswersAgree s₀ t₀ (exec i s) (exec i t) := by
  by_cases hi : i = .prefixCb
  · rw [hi, exec_prefixCb, exec_prefixCb, h.pc_eq, h.busValue]
    exact exec_agree_of_ne (h.busRead _) _ (prefixedTable_form _).ne_prefixCb
  · exact exec_agree_of_ne h i hi

theorem step_agree {s t : State} (h : ReadLockstep s t s t) : AnswersAgree s t (step s) (step t) := by
  obtain ⟨hinstr, hread⟩ := h.fetch
  rw [step, step, hinstr]
  exact exec_agree hread _

end Sys2Proof.Machine
end

section
/-! The obligations of the state family (10_state.md). -/

namespace Sys2Proof.Proofs

open Sys2Proof.Machine Sys2Proof.Claims

/-- Settles O40: the two steps are runs in lockstep from their start on. -/
theorem stepDependsOnlyOnCoreAndAnswers : Obligations.StepDependsOnlyOnCoreAndAnswers := by
  intro s t hcore hstop hanswers
  have hagree := step_agree ⟨⟨hcore, [], rfl, rfl⟩, hstop, hanswers⟩
  constructor
  · intro f hs
    rw [hs] at hagree
    exact hagree.eq_fault
  · intro s' hs
    rw [hs] at hagree
    obtain ⟨t', ht, hlock, hsignal⟩ := hagree.eq_next
    exact ⟨t', ht, hlock.core, hsignal, hlock.history⟩

/-- Settles O21: the flags byte is pushed bit by bit, and popped and pushed again it has lost its low nibble. -/
theorem pushAndPopAfRouteTheFlagsByte : Obligations.PushAndPopAfRouteTheFlagsByte := by
  intro s
  refine ⟨?_, rfl, fun t ht => ⟨_, exec_pushAf t, ?_⟩⟩
  · rw [exec_pushAf, flagsToByte_eq_append]
  · obtain rfl := Host.Outcome.next.inj ((exec_popAf s).symm.trans ht)
    have haddr : s.sp + 2#16 - 1#16 = s.sp + 1#16 := by bv_omega
    simp [goes, popped, pushed_bus, haddr]

/-- Settles O34, by the `pc` of every answer. -/
theorem pcAdvancesByLengthOrToTarget : Obligations.PcAdvancesByLengthOrToTarget :=
  fun i s _ h => (exec_pc i s).of_eq_next h

/-- Settles O42, by the `sp` of every answer. -/
theorem onlyListedInstructionsWriteSp : Obligations.OnlyListedInstructionsWriteSp :=
  fun i s _ h => (exec_sp i s).of_eq_next h

/-- Settles O43, by the registers of every answer. -/
theorem onlyDestinationRegistersChange : Obligations.OnlyDestinationRegistersChange :=
  fun i s _ h => (exec_regs i s).of_eq_next h

/-- Settles O47, by the value of the flags byte and the laws of the two conversions. -/
theorem flagsByteRoundTrips : Obligations.FlagsByteRoundTrips :=
  ⟨flagsToByte_toNat, flagsToByte_flagsFromByte, flagsFromByte_flagsToByte⟩

/-- Settles O48, by the laws of the register file and the value of a word made of two bytes. -/
theorem registersAndPairViewsAgree : Obligations.RegistersAndPairViewsAgree :=
  ⟨fun s r r' v => s.getReg_setReg r r' v, State.getPair_setPair, fun s _ _ w h => s.getPair_setPair_of_ne w h,
    fun s => by simp only [State.getPair, mkWord_toNat, Nat.mul_comm, and_self]⟩

end Sys2Proof.Proofs
end

section
/-! SUPPORT. The plain memory and its history of transactions (20_memory.md R41, R50): what a bus read and a bus write leave of each. -/

namespace Sys2Proof.Machine

open Sys2Proof.Claims

/-! ## What a write leaves at other addresses -/

theorem Memory.read_consCell_of_ne {addr q : Nat} (h : q ≠ addr) (v : Byte) (rest : Memory) :
    (Memory.consCell addr v rest).read q = rest.read q := by
  unfold Memory.consCell
  split
  · rfl
  · exact if_neg h

/-- A write leaves every other address, in canonical form or not. -/
theorem Memory.read_write_of_ne {addr q : Nat} (h : q ≠ addr) (v : Byte) (m : Memory) : (m.write addr v).read q = m.read q := by
  induction m with
  | nil => exact Memory.read_consCell_of_ne h v []
  | cons cell rest ih =>
    obtain ⟨k, w⟩ := cell
    unfold Memory.write
    split
    · exact Memory.read_consCell_of_ne h v _
    · split
      · next hk =>
        subst hk
        rw [Memory.read_consCell_of_ne h, Memory.read, if_neg h]
      · simp only [Memory.read, ih]

theorem busWrite_read_of_ne {addr q : Word} (h : q ≠ addr) (v : Byte) (s : State) :
    (busWrite addr v s).mem.read q.toNat = s.mem.read q.toNat := by
  rw [busWrite_mem_eq]
  split
  · rfl
  · exact Memory.read_write_of_ne (mt BitVec.eq_of_toNat_eq h) v s.mem

theorem busWrite_read_same {s : State} (hwf : s.mem.wf = true) {addr : Word} (h : plain s addr) (v : Byte) :
    (busWrite addr v s).mem.read addr.toNat = v := by
  simp [h, Memory.read_write hwf]

/-! ## The history -/

@[simp] theorem cellAfter_nil (m0 : Memory) (q : Word) : cellAfter m0 [] q = m0.read q.toNat := rfl

@[simp] theorem cellAfter_write (m0 : Memory) (addr : Word) (v : Byte) (history : List BusEvent) (q : Word) :
    cellAfter m0 (.write addr v :: history) q = if addr = q then v else cellAfter m0 history q := by
  by_cases h : addr = q <;> simp [cellAfter, lastWrite, h]

/-! ## Coherence -/

theorem coherent_of_launch {s : State} (hwf : s.mem.wf = true) (hbus : s.bus = []) : Coherent s.mem s :=
  ⟨hwf, by simp [hbus], by simp [hbus, readsAgree]⟩

theorem Coherent.busRead {m0 : Memory} {s : State} (h : Coherent m0 s) (addr : Word) : Coherent m0 (busRead addr s).2 := by
  obtain ⟨hwf, hcells, hreads⟩ := h
  have hvalue : busValue addr s =
      if isExternal s.config addr then Config.collaboratorRead s.bus addr else cellAfter m0 s.bus addr := by
    cases hext : isExternal s.config addr with
    | true => exact busValue_external hext
    | false => exact (busValue_plain hext).trans (hcells addr hext)
  exact ⟨hwf, hcells, hvalue, hreads⟩

theorem Coherent.busWrite {m0 : Memory} {s : State} (h : Coherent m0 s) (addr : Word) (v : Byte) :
    Coherent m0 (busWrite addr v s) := by
  obtain ⟨hwf, hcells, hreads⟩ := h
  refine ⟨busWrite_wf hwf addr v, fun q hq => ?_, hreads⟩
  rw [busWrite_bus, cellAfter_write]
  split
  · next heq =>
    subst heq
    exact busWrite_read_same hwf hq v
  · next hne => rw [busWrite_read_of_ne (Ne.symm hne), hcells q hq]

theorem Coherent.congr {m0 : Memory} {s t : State} (h : Coherent m0 s) (hm : t.mem = s.mem) (hb : t.bus = s.bus)
    (hc : t.config = s.config) : Coherent m0 t := by
  obtain ⟨hwf, hcells, hreads⟩ := h
  exact ⟨hm ▸ hwf, by rwa [hm, hb, hc], by rwa [hb, hc]⟩

theorem Reaches.coherent {m0 : Memory} {s t : State} (h : Reaches s t) (hs : Coherent m0 s) : Coherent m0 t :=
  h.keeps hs (fun addr _ hu => hu.busRead addr) (fun addr v _ hu => hu.busWrite addr v) fun _ _ hu => hu.congr

theorem Reaches.mem_wf {s t : State} (h : Reaches s t) (hs : s.mem.wf = true) : t.mem.wf = true :=
  h.keeps (Inv := fun u => u.mem.wf = true) hs (fun _ _ hu => hu) (fun addr v _ hu => busWrite_wf hu addr v)
    fun _ _ hu hm _ _ => hm ▸ hu

/-! ## The forms at HL -/

/-- What a read-modify-write form at HL answers, in terms of the answer of its form on B in a state whose B holds the byte at HL: one read
of HL, then one write there of what B became, with the flags, `pc` and signal of the form on B. -/
def ReplacesAtHl (s : State) (onB atHl : Answer) : Prop :=
  ∃ t, onB = .next t ∧
    atHl = .next { busWrite (mkWord s.h s.l) t.b (Machine.busRead (mkWord s.h s.l) s).2 with f := t.f, pc := t.pc, signal := t.signal }

theorem replacesAtHl_modify8 (op : Byte → Result8) (len : Word) (s : State) :
    ReplacesAtHl s (modify8 op (.reg .b) len { s with b := busValue (mkWord s.h s.l) s }) (modify8 op .hlInd len s) :=
  ⟨_, rfl, rfl⟩

theorem replacesAtHl_modifyBits (op : Byte → Byte) (s : State) :
    ReplacesAtHl s (modifyBits op (.reg .b) { s with b := busValue (mkWord s.h s.l) s }) (modifyBits op .hlInd s) :=
  ⟨_, rfl, rfl⟩

end Sys2Proof.Machine
end

section
/-! SUPPORT. The transactions of a meaning and of a step, counted (20_memory.md R46): how many bytes it reads and, in their order, the
addresses it stores to. The bound on the transactions and the frame of the memory both follow from them. -/

namespace Sys2Proof.Claims

open Sys2Proof.Machine

/-- `t` comes from `s` by at most `n` bus reads, then one bus write to each of the addresses `stores` in order, and by updates that leave
memory and history alone. -/
inductive Transacts (s : State) : Nat → List Word → State → Prop where
  | start {n : Nat} : Transacts s n [] s
  | read {n : Nat} {t : State} (addr : Word) (h : Transacts s n [] t) : Transacts s (n + 1) [] (busRead addr t).2
  | write {n : Nat} {stores : List Word} {t : State} (addr : Word) (v : Byte) (h : Transacts s n stores t) :
      Transacts s n (stores ++ [addr]) (busWrite addr v t)
  | core {n : Nat} {stores : List Word} {t u : State} (h : Transacts s n stores t) (hm : u.mem = t.mem) (hb : u.bus = t.bus) :
      Transacts s n stores u

theorem Transacts.mono {s t : State} {m n : Nat} {stores : List Word} (h : Transacts s m stores t) (hmn : m ≤ n) :
    Transacts s n stores t := by
  induction h generalizing n with
  | start => exact .start
  | read addr _ ih =>
    obtain ⟨k, rfl⟩ := Nat.exists_eq_add_of_le' hmn
    exact (ih (Nat.le_add_left _ k)).read addr
  | write addr v _ ih => exact (ih hmn).write addr v
  | core _ hm hb ih => exact (ih hmn).core hm hb

/-- Reads, then what a state answers after them. -/
theorem Transacts.trans {s t u : State} {m n : Nat} {stores : List Word} (h : Transacts s m [] t) (k : Transacts t n stores u) :
    Transacts s (m + n) stores u := by
  induction k with
  | start => exact h.mono (Nat.le_add_right _ _)
  | read addr _ ih => exact ih.read addr
  | write addr v _ ih => exact ih.write addr v
  | core _ hm hb ih => exact ih.core hm hb

/-- The new part of the history: the writes are the newer part, one for each store. -/
theorem Transacts.bus_eq {s t : State} {n : Nat} {stores : List Word} (h : Transacts s n stores t) :
    ∃ writes reads : List BusEvent, t.bus = writes ++ (reads ++ s.bus) ∧
      (∀ e ∈ writes, isRead e = false) ∧ (∀ e ∈ reads, isRead e = true) ∧
      writes.length = stores.length ∧ reads.length ≤ n := by
  induction h with
  | start => exact ⟨[], [], rfl, nofun, nofun, rfl, Nat.zero_le _⟩
  | @read n t addr _ ih =>
    obtain ⟨writes, reads, hbus, -, hreads, hwlen, hrlen⟩ := ih
    obtain rfl := List.length_eq_zero_iff.mp hwlen
    exact ⟨[], .read addr (busValue addr t) :: reads, congrArg _ hbus, nofun, List.forall_mem_cons.mpr ⟨rfl, hreads⟩, rfl,
      Nat.succ_le_succ hrlen⟩
  | @write n stores t addr v _ ih =>
    obtain ⟨writes, reads, hbus, hwrites, hreads, hwlen, hrlen⟩ := ih
    exact ⟨.write addr v :: writes, reads, congrArg _ hbus, List.forall_mem_cons.mpr ⟨rfl, hwrites⟩, hreads, by simp [hwlen], hrlen⟩
  | core _ _ hb ih =>
    rw [hb]
    exact ih

/-- A byte that nothing is stored to keeps its value. -/
theorem Transacts.mem_read {s t : State} {n : Nat} {stores : List Word} (h : Transacts s n stores t) {q : Word} (hq : q ∉ stores) :
    t.mem.read q.toNat = s.mem.read q.toNat := by
  induction h with
  | start => rfl
  | read _ _ ih => exact ih hq
  | write addr v _ ih =>
    obtain ⟨hstores, haddr⟩ := not_or.mp (mt List.mem_append.mpr hq)
    rw [busWrite_read_of_ne (mt List.mem_singleton.mpr haddr), ih hstores]
  | core _ hm _ ih => rw [hm, ih hq]

section
variable {s t : State} {n : Nat} {stores : List Word}

theorem Transacts.setReg (h : Transacts s n stores t) (r : Reg8) (v : Byte) : Transacts s n stores (t.setReg r v) :=
  h.core (t.setReg_mem r v) (t.setReg_bus r v)

theorem Transacts.setPair (h : Transacts s n stores t) (q : Pair) (w : Word) : Transacts s n stores (t.setPair q w) :=
  h.core (t.setPair_mem q w) (t.setPair_bus q w)

theorem Transacts.setRR (h : Transacts s n stores t) (p : RR) (w : Word) : Transacts s n stores (t.setRR p w) :=
  h.core (t.setRR_mem p w) (t.setRR_bus p w)

theorem Transacts.commit (h : Transacts s n stores t) (w : Word) (g : Signal) : Transacts s n stores (t.commit w g) :=
  h.core rfl rfl

end

/-! ## The shapes -/

/-- The addresses stored to where an operand is replaced: none for a register. -/
def operandStores (loc : Loc8) (s : State) : List Word :=
  match loc with
  | .reg _ => []
  | .hlInd => [s.hl]

theorem transacts_push16 (w : Word) (s : State) : Transacts s 0 [s.sp - 1#16, s.sp - 2#16] (push16 w s) := by
  rw [push16_eq_pushed]
  exact ((Transacts.start.write (s.sp - 1#16) (hiByte w)).write (s.sp - 2#16) (loByte w)).core rfl rfl

theorem transacts_pop16 (s : State) : Transacts s 2 [] (pop16 s).2 :=
  ((Transacts.start.read s.sp).read (s.sp + 1#16)).core rfl rfl

theorem transacts_modify8 (op : Byte → Result8) (loc : Loc8) (len : Word) (s : State) :
    Ensures (Transacts s 1 (operandStores loc s)) (modify8 op loc len s) := by
  cases loc with
  | reg r => exact (Transacts.start.setReg r _).core rfl rfl
  | hlInd => exact ((Transacts.start.read s.hl).write s.hl _).core rfl rfl

theorem transacts_modifyBits (op : Byte → Byte) (loc : Loc8) (s : State) :
    Ensures (Transacts s 1 (operandStores loc s)) (modifyBits op loc s) := by
  cases loc with
  | reg r => exact (Transacts.start.setReg r _).commit _ _
  | hlInd => exact ((Transacts.start.read s.hl).write s.hl _).commit _ _

theorem transacts_loadFrom (r : Reg8) (addr len : Word) (s : State) : Ensures (Transacts s 1 []) (loadFrom r addr len s) :=
  ((Transacts.start.read addr).setReg r _).commit _ _

theorem transacts_storeTo (n : Nat) (addr : Word) (v : Byte) (len : Word) (s : State) :
    Ensures (Transacts s n [addr]) (storeTo addr v len s) :=
  (Transacts.start.write addr v).commit _ _

theorem transacts_storeAThenHl (n : Nat) (newHl : Word) (s : State) : Ensures (Transacts s n [s.hl]) (storeAThenHl newHl s) :=
  ((Transacts.start.write s.hl s.a).setPair .hl newHl).commit _ _

theorem transacts_callTo (n : Nat) (target back : Word) (s : State) :
    Ensures (Transacts s n [s.sp - 1#16, s.sp - 2#16]) (callTo target back s) :=
  ((transacts_push16 back s).mono (Nat.zero_le n)).commit _ _

theorem transacts_jumpTo (n : Nat) (target : Word) (s : State) : Ensures (Transacts s n []) (jumpTo target s) :=
  Transacts.start.commit _ _

theorem transacts_returnWith (g : Signal) (s : State) : Ensures (Transacts s 2 []) (returnWith g s) :=
  (transacts_pop16 s).commit _ _

/-! ## The rows -/

/-- How many bytes a row reads at most when it is executed: two from the stack, else one operand; PREFIX CB reads the byte behind it and the
operand of the entry which that byte selects. -/
def dataReads : Instr → Nat
  | .popPair _ | .popAf | .ret | .retCc _ | .reti | .prefixCb => 2
  | _ => 1

theorem dataReads_le_two (i : Instr) : dataReads i ≤ 2 := by
  unfold dataReads
  split <;> decide

theorem dataReads_prefixedForm {i : Instr} (h : PrefixedForm i) : dataReads i = 1 := by
  cases h <;> rfl

theorem storesTo_prefixedForm_busRead {i : Instr} (h : PrefixedForm i) (addr : Word) (s : State) :
    storesTo i (busRead addr s).2 = storesTo i s := by
  cases h <;> rfl

theorem length_storesTo_le_two (i : Instr) (s : State) : (storesTo i s).length ≤ 2 := by
  cases i
  case callCcNn cc _ =>
    simp only [storesTo]
    split <;> simp
  all_goals exact Nat.le_of_ble_eq_true rfl

/-- Every row but PREFIX CB: a meaning reads an operand or the top of the stack, stores to the addresses of its row, or does neither. -/
theorem exec_transacts_of_ne (i : Instr) (s : State) (h : i ≠ .prefixCb) :
    Ensures (Transacts s (dataReads i) (storesTo i s)) (exec i s) := by
  cases i
  case prefixCb => exact absurd rfl h
  case addAHl | adcAHl | subHl | sbcAHl | andHl | xorHl | orHl | cpHl | bitHl | ldAHlInc | ldAHlDec =>
    exact (Transacts.start.read s.hl).core rfl rfl
  case incR | decR | rlcR | rrcR | rlR | rrR | slaR | sraR | swapR | srlR => exact transacts_modify8 _ (.reg _) _ _
  case incHl | decHl | rlcHl | rrcHl | rlHl | rrHl | slaHl | sraHl | swapHl | srlHl => exact transacts_modify8 _ .hlInd _ _
  case resR | setR => exact transacts_modifyBits _ (.reg _) _
  case resHl | setHl => exact transacts_modifyBits _ .hlInd _
  case incRR | decRR => exact (Transacts.start.setRR _ _).core rfl rfl
  case ldReg | ldRegN => exact (Transacts.start.setReg _ _).commit _ _
  case ldRegHl | ldABc | ldADe | ldANn | ldhAN | ldAC => exact transacts_loadFrom _ _ _ _
  case ldHlReg | ldHlN | ldBcA | ldDeA | ldNnA | ldhNA | ldCA => exact transacts_storeTo _ _ _ _ _
  case ldHlIncA | ldHlDecA => exact transacts_storeAThenHl _ _ _
  case ldRRNn => exact (Transacts.start.setRR _ _).commit _ _
  case ldNnSp nn => exact ((Transacts.start.write nn _).write (nn + 1#16) _).commit _ _
  case pushPair | pushAf => exact ((transacts_push16 _ s).mono (Nat.zero_le _)).commit _ _
  case popPair q => exact ((transacts_pop16 s).setPair q _).commit _ _
  case popAf => exact (transacts_pop16 s).core rfl rfl
  case callNn | rst => exact transacts_callTo _ _ _ _
  case callCcNn =>
    simp only [exec, execCallCcNn, storesTo]
    split
    · exact transacts_callTo _ _ _ _
    · exact transacts_jumpTo _ _ _
  case jpCcNn | jrCcE => exact Ensures.ite _ (transacts_jumpTo _ _ _) (transacts_jumpTo _ _ _)
  case ret | reti => exact transacts_returnWith _ _
  case retCc => exact Ensures.ite _ (transacts_returnWith _ _) (transacts_jumpTo _ _ _)
  case illegalD3 | illegalDB | illegalDD | illegalE3 | illegalE4 | illegalEB | illegalEC | illegalED | illegalF4 | illegalFC |
      illegalFD => trivial
  all_goals exact Transacts.start.core rfl rfl

/-- Every row, PREFIX CB as one more read before the entry it selects. -/
theorem exec_transacts (i : Instr) (s : State) : Ensures (Transacts s (dataReads i) (storesTo (rowRun i s) s)) (exec i s) := by
  refine ensures_of_rows (P := fun i s => Transacts s (dataReads i) (storesTo (rowRun i s) s)) (fun i s h => ?_) (fun s t ht => ?_) i s
  · rw [rowRun_of_ne h]
    exact exec_transacts_of_ne i s h
  · have hform := prefixedTable_form (busValue (s.pc + 1#16) s)
    rw [rowRun_of_ne hform.ne_prefixCb, dataReads_prefixedForm hform, storesTo_prefixedForm_busRead hform] at ht
    exact (Transacts.start.read (n := 0) (s.pc + 1#16)).trans ht

/-! ## The fetch and the step -/

/-- A row with an immediate word, whose fetch reads two bytes behind the first, reads one byte of data at most: such rows are loads, stores,
jumps and calls. The cases are the entries of the table. -/
theorem dataReads_of_opNN {op : Byte} {f : Word → Instr} (h : primaryTable op = .opNN f) (nn : Word) : dataReads (f nn) = 1 := by
  unfold primaryTable primaryQuarter0 primaryQuarter1 primaryQuarter2 primaryQuarter3 at h
  repeat' split at h
  all_goals cases h
  all_goals rfl

/-- After the read at `pc`, what the fetch reads and what the fetched row may read are three bytes at most. -/
theorem fetch_transacts (s : State) :
    ∃ n, Transacts (busRead s.pc s).2 n [] (fetch s).2 ∧ n + dataReads (fetch s).1 ≤ 3 := by
  unfold fetch
  dsimp only
  split
  · exact ⟨0, .start, Nat.add_le_add (Nat.zero_le 1) (dataReads_le_two _)⟩
  · exact ⟨1, Transacts.start.read _, Nat.add_le_add_left (dataReads_le_two _) 1⟩
  · next hentry => exact ⟨2, (Transacts.start.read _).read _, by rw [dataReads_of_opNN hentry]⟩
  · exact ⟨1, Transacts.start.read _, Nat.add_le_add_left (dataReads_le_two _) 1⟩
  · exact ⟨0, .start, Nat.add_le_add (Nat.zero_le 1) (dataReads_le_two _)⟩

theorem step_transacts (s : State) :
    Ensures (Transacts (busRead s.pc s).2 3 (storesTo (rowRun (fetch s).1 (fetch s).2) (fetch s).2)) (step s) := by
  obtain ⟨n, hfetch, hn⟩ := fetch_transacts s
  exact (exec_transacts (fetch s).1 (fetch s).2).imp fun _ h => (hfetch.trans h).mono hn

end Sys2Proof.Claims
end

section
/-! The obligations of the memory family (20_memory.md). -/

namespace Sys2Proof.Proofs

open Sys2Proof.Machine Sys2Proof.Claims

/-- Settles O36: a step is made of bus reads, bus writes and core updates, and each keeps the form. -/
theorem stepKeepsMemoryCanonical : Obligations.StepKeepsMemoryCanonical :=
  fun _ _ hwf h => (step_reaches h).mem_wf hwf

/-- Settles O38: bus reads, bus writes and core updates keep coherence, and both the step and the fetch before a fault are made of these. -/
theorem stepKeepsMemoryCoherentWithHistory : Obligations.StepKeepsMemoryCoherentWithHistory :=
  fun _ s hs => ⟨fun _ h => (step_reaches h).coherent hs, (fetch_reaches s).coherent hs⟩

/-- Settles O35, by the transactions of a step behind the read at `pc`. -/
theorem stepReadsFromPcThenWrites : Obligations.StepReadsFromPcThenWrites := by
  intro s t h
  obtain ⟨writes, reads, hbus, hwrites, hreads, hwlen, hrlen⟩ := ((step_transacts s).of_eq_next h).bus_eq
  exact ⟨writes, reads, hbus, hwrites, hreads, hwlen.trans_le (length_storesTo_le_two _ _), hrlen, (step_reaches h).config_eq⟩

/-- Settles O41: the store and the fetch are transactions at one plain address. -/
theorem storeIsSeenByNextFetch : Obligations.StoreIsSeenByNextFetch := by
  intro s hwf hplain
  have hread := busValue_busWrite hwf s.a hplain hplain
  exact ⟨_, rfl, rfl, hread.trans (if_pos rfl)⟩

/-- Settles O45, by the transactions of every answer. -/
theorem onlyStoredBytesChange : Obligations.OnlyStoredBytesChange :=
  fun i s _ h _ haddr => ((exec_transacts i s).of_eq_next h).mem_read haddr

/-- Settles O50, by what a bus write leaves at its own address and at every other one. -/
theorem busWriteChangesOneByte : Obligations.BusWriteChangesOneByte := by
  refine fun s addr v => ⟨rfl, fun hplain hwf q => ?_, fun hwindow => ?_⟩
  · split
    · next heq => rw [heq, busWrite_read_same hwf hplain]
    · next hne => exact busWrite_read_of_ne hne v s
  · rw [busWrite_mem_eq, if_pos (Bool.eq_true_of_not_eq_false hwindow)]

/-- Settles O10: INC, DEC, the rotates and shifts and SWAP are one shape, RES and SET another, and BIT reads only. -/
theorem readModifyWriteAtHlActsAsOnRegister : Obligations.ReadModifyWriteAtHlActsAsOnRegister := by
  refine fun b s => ⟨?_, _, rfl, rfl⟩
  simp only [List.forall_mem_cons]
  exact ⟨replacesAtHl_modify8 (inc8 s.f) _ s, replacesAtHl_modify8 (dec8 s.f) _ s, replacesAtHl_modify8 (rlc8 s.f false) _ s,
    replacesAtHl_modify8 (rrc8 s.f false) _ s, replacesAtHl_modify8 (rl8 s.f false) _ s, replacesAtHl_modify8 (rr8 s.f false) _ s,
    replacesAtHl_modify8 (sla8 s.f) _ s, replacesAtHl_modify8 (sra8 s.f) _ s, replacesAtHl_modify8 swap8 _ s,
    replacesAtHl_modify8 (srl8 s.f) _ s, replacesAtHl_modifyBits (res8 b) s, replacesAtHl_modifyBits (set8 b) s, nofun⟩

/-- Settles O39: the reset state is a launch with the empty memory. -/
theorem launchIsCoherent : Obligations.LaunchIsCoherent :=
  ⟨fun _ => coherent_of_launch, coherent_of_launch (s := State.reset) rfl rfl⟩

/-- Settles O51: a plain address answers its cell, before and after the read is recorded, a window the collaborator. -/
theorem busReadAnswersAndIsRecorded : Obligations.BusReadAnswersAndIsRecorded :=
  fun _ addr => ⟨rfl, fun h => ⟨busValue_plain h, busValue_busRead addr h⟩,
    fun h => busValue_external (Bool.eq_true_of_not_eq_false h)⟩

end Sys2Proof.Proofs
end

section
/-! SUPPORT. Encoding undoes decoding (30_encoding.md R64, R79): what the rows of the two tables are encoded to, so that a list of bytes has
at most one reading; and the bytes of the ILLEGAL rows (R74). -/

namespace Sys2Proof

/-! ## Encoding the rows of the tables -/

/-- The row an entry gives when the byte `n` or the word `nn` is the immediate of its format; for the prefix marker, the row PREFIX CB. -/
def Entry.row (n : Byte) (nn : Word) : Entry → Instr
  | .op i => i
  | .opN f => f n
  | .opNN f => f nn
  | .prefixMark => .prefixCb
  | .absent row => row

/-- The opcode byte and the immediate of an entry's format. -/
def Entry.bytes (op n : Byte) (nn : Word) : Entry → List Byte
  | .op _ => [op]
  | .opN _ => [op, n]
  | .opNN _ => withWord op nn
  | .prefixMark => [op]
  | .absent _ => [op]

/-- An opcode byte is its fields put together (30_encoding.md R66). -/
theorem append_fields (op : Byte) : fieldX op ++ fieldY op ++ fieldZ op = op := by
  revert op
  decide

/-- The row the primary table holds for a byte is encoded with that byte. The table is a constant: the cases are the values of the byte's
fields, and the immediates stay general. -/
theorem encode_primaryTable (op n : Byte) (nn : Word) :
    encode ((primaryTable op).row n nn) = (primaryTable op).bytes op n nn := by
  rw [← append_fields op]
  rcases Machine.two_bits (fieldX op) with hx | hx | hx | hx <;> rw [hx] <;>
    rcases Machine.three_bits (fieldY op) with hy | hy | hy | hy | hy | hy | hy | hy <;> rw [hy] <;>
      rcases Machine.three_bits (fieldZ op) with hz | hz | hz | hz | hz | hz | hz | hz <;> rw [hz] <;> rfl

theorem head?_encode_row (op n : Byte) (nn : Word) : (encode ((primaryTable op).row n nn)).head? = some op := by
  rw [encode_primaryTable]
  cases primaryTable op <;> rfl

theorem encode_prefixedTable (op : Byte) : encode (prefixedTable op) = [0xCB#8, op] := by
  revert op
  decide

/-- The prefix marker stands at 0xCB alone. -/
theorem eq_of_primaryTable_prefixMark {op : Byte} (h : primaryTable op = .prefixMark) : op = 0xCB#8 := by
  have hhead := head?_encode_row op 0#8 0#16
  rw [h] at hhead
  exact (Option.some.inj hhead).symm

/-! ## At most one reading -/

/-- What decodes is an encoding and the rest: each format reads the bytes its rows are encoded to. -/
theorem eq_encode_append_of_decode {bytes rest : List Byte} {i : Instr} (h : decode bytes = .ok (i, rest)) :
    bytes = encode i ++ rest := by
  cases bytes with
  | nil => cases h
  | cons op tail =>
    have henc := encode_primaryTable op
    cases hentry : primaryTable op
    all_goals simp only [decode, hentry, Entry.row, Entry.bytes] at h henc
    case op | absent =>
      cases h
      rw [henc 0#8 0#16, List.singleton_append]
    case opN f =>
      cases tail with
      | nil => cases h
      | cons n tail =>
        cases h
        rw [henc n 0#16]
        rfl
    case opNN f =>
      match tail with
      | [] | [_] => cases h
      | lo :: hi :: tail =>
        cases h
        rw [henc 0#8 (mkWord hi lo), withWord, loByte_mkWord, hiByte_mkWord]
        rfl
    case prefixMark =>
      obtain rfl := eq_of_primaryTable_prefixMark hentry
      cases tail with
      | nil => cases h; rfl
      | cons n tail =>
        cases h
        rw [encode_prefixedTable]
        rfl

/-- An encoding with nothing behind it decodes to its row, the lone prefix byte too. -/
theorem decode_encode_nil (i : Instr) : decode (encode i) = .ok (i, []) := by
  cases h : i.isPrefixRow with
  | false => simpa using decode_encode i [] h
  | true =>
    cases i
    case prefixCb => rfl
    all_goals cases h

theorem encode_injective {i j : Instr} (h : encode i = encode j) : i = j := by
  have hdecode := decode_encode_nil i
  rw [h, decode_encode_nil j] at hdecode
  cases hdecode
  rfl

end Sys2Proof
end

section
/-! SUPPORT. Which rows fault, and so which steps (48_system.md R245, R246; 60_exceptions.md R250). -/

namespace Sys2Proof.Machine

open Sys2Proof.Claims

/-! ## The meanings -/

theorem of_illegalByte_eq_some {i : Instr} {byte : Byte} (h : i.illegalByte = some byte) :
    byte ∈ illegalBytes ∧ encode i = [byte] ∧ ∀ s : State, exec i s = .fault (.illegalOpcode byte false) := by
  cases i
  case illegalD3 | illegalDB | illegalDD | illegalE3 | illegalE4 | illegalEB | illegalEC | illegalED | illegalF4 | illegalFC |
      illegalFD =>
    obtain rfl := Option.some.inj h
    exact ⟨by decide, rfl, fun _ => rfl⟩
  all_goals cases h

theorem exec_prefixedForm_completes {i : Instr} (h : PrefixedForm i) (s : State) : ∃ t, exec i s = .next t := by
  cases h <;> exact ⟨_, rfl⟩

/-- The prefix row completes: no entry it can select faults (30_encoding.md R75). -/
theorem exec_prefixCb_completes (s : State) : ∃ t, exec .prefixCb s = .next t := by
  rw [exec_prefixCb]
  exact exec_prefixedForm_completes (prefixedTable_form _) _

/-- Every row but the ILLEGAL ones completes, on both branches where it has a condition. -/
theorem exec_completes {i : Instr} (h : i.illegalByte = none) (s : State) : ∃ t, exec i s = .next t := by
  cases i
  case illegalD3 | illegalDB | illegalDD | illegalE3 | illegalE4 | illegalEB | illegalEC | illegalED | illegalF4 | illegalFC |
      illegalFD => cases h
  case prefixCb => exact exec_prefixCb_completes s
  case jpCcNn | jrCcE | callCcNn | retCc =>
    simp only [exec, execJpCcNn, execJrCcE, execCallCcNn, execRetCc]
    split <;> exact ⟨_, rfl⟩
  all_goals exact ⟨_, rfl⟩

theorem exec_eq_fault_iff {i : Instr} {s : State} {f : Fault} :
    exec i s = .fault f ↔ ∃ byte, i.illegalByte = some byte ∧ f = .illegalOpcode byte false := by
  cases hbyte : i.illegalByte with
  | none =>
    obtain ⟨t, ht⟩ := exec_completes hbyte s
    simp [ht]
  | some byte =>
    obtain ⟨_, _, hfault⟩ := of_illegalByte_eq_some hbyte
    simp [hfault, eq_comm]

/-! ## The fetch -/

/-- A step whose first byte is 0xCB fetches the entry of the prefixed table for the byte behind it (30_encoding.md R62). -/
theorem fetch_of_prefix {s : State} (h : busValue s.pc s = 0xCB#8) :
    fetch s =
      (prefixedTable (busValue (s.pc + 1#16) (busRead s.pc s).2), (busRead (s.pc + 1#16) (busRead s.pc s).2).2) := by
  have hentry : primaryTable (busValue s.pc s) = .prefixMark := by rw [h]; rfl
  simp [fetch, hentry]

/-- The fetched row's encoding starts with the byte at `pc`. -/
theorem head?_encode_fetch (s : State) : (encode (fetch s).1).head? = some (busValue s.pc s) := by
  have hrow := head?_encode_row (busValue s.pc s)
  cases hentry : primaryTable (busValue s.pc s)
  all_goals simp only [hentry, Entry.row] at hrow
  case op | absent => simpa [fetch, hentry] using hrow 0#8 0#16
  case opN => simpa [fetch, hentry] using hrow _ 0#16
  case opNN => simpa [fetch, hentry] using hrow 0#8 _
  case prefixMark =>
    have hop := eq_of_primaryTable_prefixMark hentry
    rw [fetch_of_prefix hop, encode_prefixedTable, hop]
    rfl

theorem primaryTable_of_mem_illegalBytes {op : Byte} (h : op ∈ illegalBytes) :
    ∃ row, primaryTable op = .absent row ∧ row.illegalByte = some op := by
  simp only [illegalBytes, List.mem_cons, List.not_mem_nil, or_false] at h
  rcases h with rfl | rfl | rfl | rfl | rfl | rfl | rfl | rfl | rfl | rfl | rfl <;> exact ⟨_, rfl, rfl⟩

/-- A step fetches an ILLEGAL row exactly when the byte at `pc` is that row's byte. -/
theorem fetch_illegalByte_iff {s : State} {byte : Byte} :
    (fetch s).1.illegalByte = some byte ↔ busValue s.pc s ∈ illegalBytes ∧ byte = busValue s.pc s := by
  constructor
  · intro h
    obtain ⟨hmem, henc, _⟩ := of_illegalByte_eq_some h
    have hhead := head?_encode_fetch s
    rw [henc] at hhead
    obtain rfl := Option.some.inj hhead
    exact ⟨hmem, rfl⟩
  · rintro ⟨hmem, rfl⟩
    obtain ⟨row, hentry, hrow⟩ := primaryTable_of_mem_illegalBytes hmem
    simpa [fetch, hentry] using hrow

theorem step_eq_fault_iff {s : State} {f : Fault} :
    step s = .fault f ↔ busValue s.pc s ∈ illegalBytes ∧ f = .illegalOpcode (busValue s.pc s) false := by
  simp [step, exec_eq_fault_iff, fetch_illegalByte_iff, and_assoc]

end Sys2Proof.Machine
end

section
/-! The obligations of the encoding family (30_encoding.md). -/

namespace Sys2Proof.Proofs

open Sys2Proof.Machine Sys2Proof.Claims

/-- Settles O28: the decoder reads each row's encoding back, and the lone prefix byte as the prefix row. -/
theorem decodeOfEncodeGivesTheInstruction : Obligations.DecodeOfEncodeGivesTheInstruction :=
  ⟨decode_encode, decode_encode_nil .prefixCb⟩

/-- Settles O25: PREFIX CB runs the entry it selects, no entry faults, and the fetch behind 0xCB selects the same entry. -/
theorem prefixSelectsThePrefixedTable : Obligations.PrefixSelectsThePrefixedTable := by
  intro s
  obtain ⟨t, ht⟩ := exec_prefixCb_completes s
  refine ⟨⟨exec_prefixCb s, t, ht, (exec_pc .prefixCb s).of_eq_next ht⟩, fun hprefix => ?_⟩
  rw [step, fetch_of_prefix hprefix, exec_prefixCb]
  rfl

/-- Settles O29: each format reads what its rows are encoded to, and decoding tells encodings apart. -/
theorem encodeOfDecodeGivesTheBytes : Obligations.EncodeOfDecodeGivesTheBytes :=
  ⟨fun _ _ _ => eq_encode_append_of_decode, fun _ _ => encode_injective⟩

/-- Settles O33: the ILLEGAL rows alone fault, and a step fetches one exactly from its own byte. -/
theorem stepFaultsExactlyOnElevenBytes : Obligations.StepFaultsExactlyOnElevenBytes := by
  refine fun s => ⟨?_, fun f hf => (step_eq_fault_iff.mp hf).2⟩
  simp [step_eq_fault_iff]

/-- Settles O26, row by row. -/
theorem illegalRowsRaiseIllegalOpcode : Obligations.IllegalRowsRaiseIllegalOpcode :=
  fun _ _ => of_illegalByte_eq_some

/-- Settles O27: the decoder is run on each word. -/
theorem wordsOfTheTableDecode : Obligations.WordsOfTheTableDecode :=
  ⟨rfl, rfl, rfl, rfl, rfl, rfl, rfl, rfl, rfl, rfl, rfl, rfl, rfl, rfl, rfl, rfl, rfl, rfl, rfl⟩

end Sys2Proof.Proofs
end

section
/-! SUPPORT. The ALU primitives in the arithmetic of their rules (40_alu_primitives.md R80 to R98): what each one computes, result and
flags together, said once. -/

namespace Sys2Proof.Machine

open Sys2Proof.Claims

/-! ## 8-bit arithmetic and logic -/

theorem sum_toNat (a v : Byte) (cin : Bool) : (sum a v cin).toNat = (a.toNat + v.toNat + cin.toNat) % 256 := by
  rw [sum, BitVec.toNat_ofNat, Nat.mod_mod]

theorem sum_eq_zero_iff (a v : Byte) (cin : Bool) : sum a v cin = 0#8 ↔ (a.toNat + v.toNat + cin.toNat) % 256 = 0 := by
  rw [← BitVec.toNat_inj, sum_toNat]
  rfl

theorem add8_eq (a v : Byte) (cin : Bool) : add8 a v cin = { value := sum a v cin, flags := sumFlags a v cin } := by
  have hvalue : BitVec.ofNat 8 (a.toNat + v.toNat + cin.toNat) = sum a v cin := by
    apply BitVec.eq_of_toNat_eq
    rw [BitVec.toNat_ofNat, sum_toNat]
  have hzero : (sum a v cin == 0#8) = decide ((a.toNat + v.toNat + cin.toNat) % 256 = 0) :=
    decide_eq_decide.mpr (sum_eq_zero_iff a v cin)
  simp only [add8, hvalue, hzero, sumFlags]

theorem sub8_eq (a v : Byte) (cin : Bool) :
    sub8 a v cin = { value := difference a v cin, flags := differenceFlags a v cin } := by
  have hvalue : BitVec.ofInt 8 ((a.toNat : Int) - v.toNat - cin.toNat) = difference a v cin := by
    simp [difference, Int.sub_eq_add_neg, BitVec.ofInt_add, BitVec.ofInt_neg, BitVec.sub_eq_add_neg]
  simp only [sub8, hvalue]
  rfl

theorem logicResult_eq (v : Byte) : logicResult v = { value := v, flags := zeroCarry v false } := rfl

/-- A mask of the low `k` bits, as a remainder. -/
theorem and_mask_beq {w : Nat} (k : Nat) (v m c : BitVec w) (hm : m.toNat = 2 ^ k - 1) :
    (v &&& m == c) = decide (v.toNat % 2 ^ k = c.toNat) := by
  have hand : (v &&& m).toNat = v.toNat % 2 ^ k := by rw [BitVec.toNat_and, hm, Nat.and_two_pow_sub_one_eq_mod]
  rw [← hand]
  exact decide_eq_decide.mpr BitVec.toNat_inj.symm

theorem inc8_eq (f : Flags) (v : Byte) :
    inc8 f v =
      { value := v + 1#8
        flags := { z := decide (v = 0xFF#8), n := false, h := decide (v.toNat % 16 = 15), c := f.c } } := by
  have hzero : (v + 1#8 == 0#8) = decide (v = 0xFF#8) := decide_eq_decide.mpr (by bv_omega)
  simp only [inc8, hzero, and_mask_beq 4 v 0x0F#8 0x0F#8 rfl]
  rfl

theorem dec8_eq (f : Flags) (v : Byte) :
    dec8 f v =
      { value := v - 1#8
        flags := { z := decide (v = 0x01#8), n := true, h := decide (v.toNat % 16 = 0), c := f.c } } := by
  have hzero : (v - 1#8 == 0#8) = decide (v = 0x01#8) := decide_eq_decide.mpr (by bv_omega)
  simp only [dec8, hzero, and_mask_beq 4 v 0x0F#8 0x00#8 rfl]
  rfl

/-! ## 16-bit arithmetic -/

theorem inc16_eq (f : Flags) (w : Word) :
    inc16 f w =
      { value := w + 1#16, flags := { z := f.z, n := false, h := decide (w.toNat % 4096 = 4095), c := f.c } } := by
  simp only [inc16, and_mask_beq 12 w 0x0FFF#16 0x0FFF#16 rfl]
  rfl

theorem dec16_eq (f : Flags) (w : Word) :
    dec16 f w =
      { value := w - 1#16, flags := { z := f.z, n := true, h := decide (w.toNat % 4096 = 0), c := f.c } } := by
  simp only [dec16, and_mask_beq 12 w 0x0FFF#16 0x0000#16 rfl]
  rfl

theorem add16_eq (f : Flags) (a b : Word) : add16 f a b = { value := a + b, flags := wordSumFlags f a b } := rfl

/-! ## Rotates and shifts -/

/-- A shift to the left by one with a bit entering at the right. -/
theorem shiftLeft_or_bitAt (v : Byte) (bit : Bool) : v <<< 1 ||| bitAt 0 bit = v.extractLsb' 0 7 ++ BitVec.ofBool bit := by
  revert v bit
  decide

/-- A shift to the right by one with a bit entering at the left. -/
theorem shiftRight_or_bitAt (v : Byte) (bit : Bool) : v >>> 1 ||| bitAt 7 bit = BitVec.ofBool bit ++ v.extractLsb' 1 7 := by
  revert v bit
  decide

theorem rotateLeft_one (v : Byte) : v.rotateLeft 1 = v.extractLsb' 0 7 ++ BitVec.ofBool (v.getLsbD 7) := by
  revert v
  decide

theorem rotateRight_one (v : Byte) : v.rotateRight 1 = BitVec.ofBool (v.getLsbD 0) ++ v.extractLsb' 1 7 := by
  revert v
  decide

theorem rlc8_eq (f : Flags) (acc : Bool) (v : Byte) : rlc8 f acc v = shiftResult f acc (v.rotateLeft 1) (v.getLsbD 7) := by
  rw [rlc8, shiftLeft_or_bitAt, rotateLeft_one]

theorem rrc8_eq (f : Flags) (acc : Bool) (v : Byte) : rrc8 f acc v = shiftResult f acc (v.rotateRight 1) (v.getLsbD 0) := by
  rw [rrc8, shiftRight_or_bitAt, rotateRight_one]

theorem rl8_eq (f : Flags) (acc : Bool) (v : Byte) :
    rl8 f acc v = shiftResult f acc (v.extractLsb' 0 7 ++ BitVec.ofBool f.c) (v.getLsbD 7) := by
  rw [rl8, shiftLeft_or_bitAt]

theorem rr8_eq (f : Flags) (acc : Bool) (v : Byte) :
    rr8 f acc v = shiftResult f acc (BitVec.ofBool f.c ++ v.extractLsb' 1 7) (v.getLsbD 0) := by
  rw [rr8, shiftRight_or_bitAt]

theorem sla8_eq (f : Flags) (v : Byte) : sla8 f v = shiftResult f false (v + v) (v.getLsbD 7) := by
  have hvalue : v <<< 1 = v + v := by
    rw [← BitVec.two_mul, BitVec.mul_comm, ← BitVec.mul_twoPow_eq_shiftLeft]
    rfl
  rw [sla8, hvalue]

theorem sra8_eq (f : Flags) (v : Byte) : sra8 f v = shiftResult f false (v.sshiftRight 1) (v.getLsbD 0) := by
  have hvalue : v >>> 1 ||| v &&& 0x80#8 = v.sshiftRight 1 := by
    revert v
    decide
  rw [sra8, hvalue]

theorem srl8_eq (f : Flags) (v : Byte) : srl8 f v = shiftResult f false (BitVec.ofNat 8 (v.toNat / 2)) (v.getLsbD 0) := by
  have hvalue : v >>> 1 = BitVec.ofNat 8 (v.toNat / 2) := by
    apply BitVec.eq_of_toNat_eq
    have := v.isLt
    simp [Nat.shiftRight_eq_div_pow]
    omega
  rw [srl8, hvalue]

theorem swap8_eq (v : Byte) : swap8 v = { value := v.rotateLeft 4, flags := zeroCarry (v.rotateLeft 4) false } := by
  have hvalue : v <<< 4 &&& 0xF0#8 ||| v >>> 4 = v.rotateLeft 4 := by
    revert v
    decide
  rw [swap8, hvalue, logicResult_eq]

/-! ## Bit operations -/

theorem getLsbD_one_shiftLeft (b : BitVec 3) (k : Nat) : (1#8 <<< b.toNat).getLsbD k = decide (k = b.toNat) := by
  have hb := b.isLt
  simp [← BitVec.twoPow_eq, hb, eq_comm]

theorem getLsbD_res8 (b : BitVec 3) (v : Byte) (k : Nat) :
    (res8 b v).getLsbD k = if k = b.toNat then false else v.getLsbD k := by
  rw [res8, BitVec.getLsbD_and, BitVec.getLsbD_not, getLsbD_one_shiftLeft]
  split
  · next h => simp [h]
  · next h =>
    have hlt : v.getLsbD k = true → k < 8 := BitVec.lt_of_getLsbD
    simpa [h] using hlt

theorem getLsbD_set8 (b : BitVec 3) (v : Byte) (k : Nat) :
    (set8 b v).getLsbD k = if k = b.toNat then true else v.getLsbD k := by
  rw [set8, BitVec.getLsbD_or, getLsbD_one_shiftLeft]
  split
  · next h => simp [h]
  · next h => simp [h]

end Sys2Proof.Machine
end

section
/-! SUPPORT. Decimal adjust (40_alu_primitives.md R98): its two tests and what it moves A by, and what these are behind an addition and
a subtraction of packed BCD. -/

namespace Sys2Proof.Machine

open Sys2Proof.Claims

/-! ## The adjustment -/

/-- Whether DAA adjusts the low digit. -/
def daaLow (f : Flags) (a : Byte) : Bool := f.h || (!f.n && decide (a.toNat % 16 > 9))

/-- Whether DAA adjusts the high digit, and so sets C. -/
def daaHigh (f : Flags) (a : Byte) : Bool := f.c || (!f.n && decide (a.toNat > 0x99))

/-- What DAA moves A by, given which digits it adjusts. -/
def daaAmount (low high : Bool) : Byte := BitVec.ofNat 8 (6 * low.toNat + 96 * high.toNat)

/-- What DAA leaves in A. -/
def daaValue (f : Flags) (a : Byte) : Byte :=
  if f.n then a - daaAmount (daaLow f a) (daaHigh f a) else a + daaAmount (daaLow f a) (daaHigh f a)

theorem or_eq_daaAmount (low high : Bool) :
    (if low then 0x06#8 else 0x00#8) ||| (if high then 0x60#8 else 0x00#8) = daaAmount low high := by
  revert low high
  decide

theorem daa8_eq (f : Flags) (a : Byte) :
    daa8 f a =
      { value := daaValue f a, flags := { z := decide (daaValue f a = 0#8), n := f.n, h := false, c := daaHigh f a } } := by
  simp only [daa8, or_eq_daaAmount]
  rfl

/-! ## Packed BCD -/

theorem bcd_toNat {k : Nat} (h : k < 100) : (bcd k).toNat = 16 * (k / 10) + k % 10 := by
  rw [bcd, BitVec.toNat_ofNat]
  omega

theorem bcd_mod_toNat (k : Nat) : (bcd (k % 100)).toNat = 16 * (k % 100 / 10) + k % 100 % 10 :=
  bcd_toNat (Nat.mod_lt k (by decide))

theorem bcd_mod_eq_zero_iff (k : Nat) : bcd (k % 100) = 0#8 ↔ k % 100 = 0 := by
  rw [← BitVec.toNat_inj, bcd_mod_toNat, BitVec.toNat_ofNat]
  omega

section

variable {x y : Nat} (hx : x < 100) (hy : y < 100)
include hx hy

/-! ## Behind an addition -/

/-- The low digit is adjusted where the low digits' decimal sum carries: a binary half-carry, or a digit above nine. -/
theorem daaLow_sum_bcd : daaLow (sumFlags (bcd x) (bcd y) false) (sum (bcd x) (bcd y) false) = decide (9 < x % 10 + y % 10) := by
  simp only [daaLow, sumFlags, sum_toNat, bcd_toNat hx, bcd_toNat hy, Bool.toNat_false, Bool.not_false, Bool.true_and,
    ← Bool.decide_or, decide_eq_decide]
  omega

/-- The high digit is adjusted where the decimal sum carries: a binary carry, or a value above 0x99. -/
theorem daaHigh_sum_bcd : daaHigh (sumFlags (bcd x) (bcd y) false) (sum (bcd x) (bcd y) false) = decide (100 ≤ x + y) := by
  -- A sum above 255 has lost 256, and C stands for it.
  have htests (t : Nat) (ht : t < 400) : t > 255 ∨ t % 256 > 0x99 ↔ t > 0x99 := by omega
  have hdigits : x / 10 + y / 10 ≤ 9 ∨ 10 ≤ x / 10 + y / 10 := le_or_gt _ 9
  simp only [daaHigh, sumFlags, sum_toNat, bcd_toNat hx, bcd_toNat hy, Bool.toNat_false, Bool.not_false, Bool.true_and,
    ← Bool.decide_or, decide_eq_decide]
  rw [htests _ (by omega)]
  omega

theorem daaValue_sum_bcd : daaValue (sumFlags (bcd x) (bcd y) false) (sum (bcd x) (bcd y) false) = bcd ((x + y) % 100) := by
  have hvalue : daaValue (sumFlags (bcd x) (bcd y) false) (sum (bcd x) (bcd y) false) =
      sum (bcd x) (bcd y) false + daaAmount (decide (9 < x % 10 + y % 10)) (decide (100 ≤ x + y)) := by
    rw [← daaLow_sum_bcd hx hy, ← daaHigh_sum_bcd hx hy]
    rfl
  rw [hvalue]
  apply BitVec.eq_of_toNat_eq
  rw [BitVec.toNat_add, sum_toNat, daaAmount, bcd_toNat hx, bcd_toNat hy, bcd_mod_toNat]
  by_cases hlow : 9 < x % 10 + y % 10
  all_goals by_cases hhigh : 100 ≤ x + y
  all_goals
    simp [hlow, hhigh]
    omega

theorem daa8_add8_bcd :
    daa8 (add8 (bcd x) (bcd y) false).flags (add8 (bcd x) (bcd y) false).value =
      { value := bcd ((x + y) % 100)
        flags := { z := decide ((x + y) % 100 = 0), n := false, h := false, c := decide (100 ≤ x + y) } } := by
  simp only [add8_eq, daa8_eq, daaValue_sum_bcd hx hy, daaHigh_sum_bcd hx hy, bcd_mod_eq_zero_iff]
  rfl

/-! ## Behind a subtraction -/

theorem daaLow_difference_bcd :
    daaLow (differenceFlags (bcd x) (bcd y) false) (difference (bcd x) (bcd y) false) = decide (x % 10 < y % 10) := by
  simp only [daaLow, differenceFlags, bcd_toNat hx, bcd_toNat hy, Bool.toNat_false, Bool.not_true, Bool.false_and, Bool.or_false,
    decide_eq_decide]
  omega

theorem daaHigh_difference_bcd :
    daaHigh (differenceFlags (bcd x) (bcd y) false) (difference (bcd x) (bcd y) false) = decide (x < y) := by
  simp only [daaHigh, differenceFlags, bcd_toNat hx, bcd_toNat hy, Bool.toNat_false, Bool.not_true, Bool.false_and, Bool.or_false,
    decide_eq_decide]
  omega

theorem daaValue_difference_bcd :
    daaValue (differenceFlags (bcd x) (bcd y) false) (difference (bcd x) (bcd y) false) = bcd ((x + 100 - y) % 100) := by
  have hvalue : daaValue (differenceFlags (bcd x) (bcd y) false) (difference (bcd x) (bcd y) false) =
      bcd x - bcd y - 0#8 - daaAmount (decide (x % 10 < y % 10)) (decide (x < y)) := by
    rw [← daaLow_difference_bcd hx hy, ← daaHigh_difference_bcd hx hy]
    rfl
  rw [hvalue, BitVec.sub_zero]
  apply BitVec.eq_of_toNat_eq
  rw [BitVec.toNat_sub, BitVec.toNat_sub, daaAmount, bcd_toNat hx, bcd_toNat hy, bcd_mod_toNat]
  by_cases hlow : x % 10 < y % 10
  all_goals by_cases hhigh : x < y
  all_goals
    simp [hlow, hhigh]
    omega

theorem daa8_sub8_bcd :
    daa8 (sub8 (bcd x) (bcd y) false).flags (sub8 (bcd x) (bcd y) false).value =
      { value := bcd ((x + 100 - y) % 100)
        flags := { z := decide (x = y), n := true, h := false, c := decide (x < y) } } := by
  have hzero : (x + 100 - y) % 100 = 0 ↔ x = y := by omega
  simp only [sub8_eq, daa8_eq, daaValue_difference_bcd hx hy, daaHigh_difference_bcd hx hy, bcd_mod_eq_zero_iff, hzero]
  rfl

end

end Sys2Proof.Machine
end

section
/-! SUPPORT. What the shapes of the 8-bit and 16-bit arithmetic instructions answer, written as the old state with fields
replaced; and the stack primitives as the rules write them (40_alu_primitives.md R101, R102). -/

namespace Sys2Proof.Machine

open Sys2Proof.Claims

/-! ## The shapes -/

/-- The three rows of an accumulator operation, one for each operand form (40_alu_primitives.md R101). -/
theorem exec_row_accumulate {reg : Reg8 → Instr} {hl : Instr} {imm : Byte → Instr}
    {op : Byte → Byte → Result8} {s : State} (hreg : ∀ r, exec (reg r) s = accumulate op (.reg r) s)
    (hhl : exec hl s = accumulate op .hlInd s) (himm : ∀ n, exec (imm n) s = accumulateImm op n s) (x : Source) :
    exec (x.row reg hl imm) s =
      .next { x.afterRead s with
        a := (op s.a (x.value s)).value, f := (op s.a (x.value s)).flags, pc := s.pc + x.length, signal := .none } := by
  cases x with
  | reg r => exact hreg r
  | hlInd => exact hhl
  | imm n => exact himm n

theorem exec_row_compare (x : Source) (s : State) :
    exec (x.row .cpR .cpHl .cpN) s =
      .next { x.afterRead s with
        f := (sub8 s.a (x.value s) false).flags, pc := s.pc + x.length, signal := .none } := by
  cases x <;> rfl

theorem modify8_reg (op : Byte → Result8) (r : Reg8) (len : Word) (s : State) :
    modify8 op (.reg r) len s =
      .next { s.setReg r (op (s.getReg r)).value with f := (op (s.getReg r)).flags, pc := s.pc + len, signal := .none } := rfl

/-- A row that modifies a register, where the result of its primitive is known. -/
theorem exec_modify8_reg {i : Instr} {op : Byte → Result8} {r : Reg8} {len : Word} {s : State} {v : Byte} {f : Flags}
    (hexec : exec i s = modify8 op (.reg r) len s) (hop : op (s.getReg r) = { value := v, flags := f }) :
    exec i s = .next { s.setReg r v with f := f, pc := s.pc + len, signal := .none } := by
  rw [hexec, modify8_reg, hop]

theorem modifyBits_at (op : Byte → Byte) (loc : Loc8) (s : State) :
    modifyBits op loc s =
      .next { replacedAt loc (op (valueAt loc s)) s with pc := s.pc + 2#16, signal := .none } := by
  cases loc <;> rfl

theorem exec_resAt (b : BitVec 3) (loc : Loc8) (s : State) :
    exec (rowAt loc (.resR b) (.resHl b)) s = modifyBits (res8 b) loc s := by
  cases loc <;> rfl

theorem exec_setAt (b : BitVec 3) (loc : Loc8) (s : State) :
    exec (rowAt loc (.setR b) (.setHl b)) s = modifyBits (set8 b) loc s := by
  cases loc <;> rfl

/-- A row that writes a pair or SP, where the result of its primitive is known. -/
theorem exec_intoRR {i : Instr} {p : RR} {r : Result16} {len : Word} {s : State} {w : Word} {f : Flags}
    (hexec : exec i s = intoRR p r len s) (hres : r = { value := w, flags := f }) :
    exec i s = .next { s.setRR p w with f := f, pc := s.pc + len, signal := .none } := by
  rw [hexec, hres]
  rfl

theorem intoA_eq (r : Result8) (len : Word) (s : State) :
    intoA r len s = .next { s with a := r.value, f := r.flags, pc := s.pc + len, signal := .none } := rfl

/-! ## The stack -/

theorem exec_pushPair (q : Pair) (s : State) :
    exec (.pushPair q) s = .next (goes (s.pc + 1#16) .none (pushed (s.getPair q) s)) :=
  congrArg (fun t => Host.Outcome.next (State.commit t (s.pc + 1#16) .none)) (push16_eq_pushed _ s)

theorem exec_popPair (q : Pair) (s : State) :
    exec (.popPair q) s = .next (goes (s.pc + 1#16) .none ((popped s).setPair q (stackTop s))) := by
  cases q <;> rfl

@[simp] theorem pushed_sp (w : Word) (s : State) : (pushed w s).sp = s.sp - 2#16 := rfl

@[simp] theorem popped_sp (s : State) : (popped s).sp = s.sp + 2#16 := rfl

@[simp] theorem goes_getPair (target : Word) (g : Signal) (s : State) (q : Pair) : (goes target g s).getPair q = s.getPair q :=
  rfl

@[simp] theorem goes_sp (target : Word) (g : Signal) (s : State) : (goes target g s).sp = s.sp := rfl

@[simp] theorem stackTop_goes (target : Word) (g : Signal) (s : State) : stackTop (goes target g s) = stackTop s := rfl

theorem busValue_pushed {s : State} (hwf : s.mem.wf = true) (hhi : plain s (s.sp - 1#16)) (hlo : plain s (s.sp - 2#16))
    (w : Word) {addr : Word} (h : plain s addr) :
    busValue addr (pushed w s) =
      if addr = s.sp - 2#16 then loByte w else if addr = s.sp - 1#16 then hiByte w else busValue addr s := by
  have hwf' := busWrite_wf hwf (s.sp - 1#16) (hiByte w)
  exact (busValue_busWrite hwf' (loByte w) hlo h).trans (by rw [busValue_busWrite hwf (hiByte w) hhi h])

/-- A pop behind a push reads the pushed word, where both of its bytes are plain memory. -/
theorem stackTop_pushed {s : State} (hwf : s.mem.wf = true) (hhi : plain s (s.sp - 1#16)) (hlo : plain s (s.sp - 2#16))
    (w : Word) : stackTop (pushed w s) = w := by
  have haddr : s.sp - 2#16 + 1#16 = s.sp - 1#16 := by bv_omega
  have hne : s.sp - 1#16 ≠ s.sp - 2#16 := by bv_omega
  have hhi' : plain (pushed w s) (s.sp - 1#16) := hhi
  rw [stackTop, pushed_sp, haddr, busValue_busRead _ hhi', busValue_pushed hwf hhi hlo w hhi, busValue_pushed hwf hhi hlo w hlo,
    if_neg hne, if_pos rfl, if_pos rfl, mkWord_hi_lo]

end Sys2Proof.Machine
end

section
/-! The obligations of the ALU primitives' family (40_alu_primitives.md). -/

namespace Sys2Proof.Proofs

open Sys2Proof.Machine Sys2Proof.Claims

/-- Settles O1: the rows of ADD and ADC accumulate by `add8`, which is the sum with its flags. -/
theorem addAndAdcWriteSumAndFlags : Obligations.AddAndAdcWriteSumAndFlags := by
  intro x s
  constructor
  · rw [exec_row_accumulate (op := fun a v => add8 a v false) (fun _ => rfl) rfl (fun _ => rfl), add8_eq]
  · rw [exec_row_accumulate (op := fun a v => add8 a v s.f.c) (fun _ => rfl) rfl (fun _ => rfl), add8_eq]

/-- Settles O2: the rows of SUB and SBC accumulate by `sub8`, and CP writes its flags alone. -/
theorem subSbcAndCpWriteDifferenceAndFlags : Obligations.SubSbcAndCpWriteDifferenceAndFlags := by
  intro x s
  refine ⟨?_, ?_, ?_⟩
  · rw [exec_row_accumulate (op := fun a v => sub8 a v false) (fun _ => rfl) rfl (fun _ => rfl), sub8_eq]
  · rw [exec_row_accumulate (op := fun a v => sub8 a v s.f.c) (fun _ => rfl) rfl (fun _ => rfl), sub8_eq]
  · rw [exec_row_compare, sub8_eq]

/-- Settles O3: the rows of AND, XOR and OR accumulate a bitwise result. -/
theorem andXorOrWriteBitwiseResult : Obligations.AndXorOrWriteBitwiseResult := by
  intro x s
  refine ⟨?_, ?_, ?_⟩
  · rw [exec_row_accumulate (op := and8) (fun _ => rfl) rfl (fun _ => rfl), and8, logicResult_eq]
  · rw [exec_row_accumulate (op := xor8) (fun _ => rfl) rfl (fun _ => rfl), xor8, logicResult_eq]
  · rw [exec_row_accumulate (op := or8) (fun _ => rfl) rfl (fun _ => rfl), or8, logicResult_eq]

/-- Settles O4: a register is modified by `inc8` or `dec8`. -/
theorem incAndDecByteKeepCarry : Obligations.IncAndDecByteKeepCarry :=
  fun _ _ => ⟨exec_modify8_reg rfl (inc8_eq _ _), exec_modify8_reg rfl (dec8_eq _ _)⟩

/-- Settles O5: a pair or SP is written with `inc16` or `dec16` of itself. -/
theorem incAndDecWordKeepZeroAndCarry : Obligations.IncAndDecWordKeepZeroAndCarry :=
  fun _ _ => ⟨exec_intoRR rfl (inc16_eq _ _), exec_intoRR rfl (dec16_eq _ _)⟩

/-- Settles O6: the three rows write `add16` of their addends to HL or SP. -/
theorem wordAddsWriteSumAndKeepZero : Obligations.WordAddsWriteSumAndKeepZero :=
  ⟨fun _ _ => exec_intoRR (p := .hl) rfl (add16_eq _ _ _), fun _ _ => exec_intoRR (p := .sp) rfl (add16_eq _ _ _),
    fun _ _ => exec_intoRR (p := .hl) rfl (add16_eq _ _ _)⟩

/-- Settles O7: A or a register is modified by a rotate, with the flags of `shiftResult`. -/
theorem rotatesWriteResultAndFlags : Obligations.RotatesWriteResultAndFlags := by
  refine ⟨fun s => ⟨?_, ?_, ?_, ?_⟩, fun r s => ⟨?_, ?_, ?_, ?_⟩⟩
  · exact exec_modify8_reg (r := .a) rfl (rlc8_eq _ true _)
  · exact exec_modify8_reg (r := .a) rfl (rrc8_eq _ true _)
  · exact exec_modify8_reg (r := .a) rfl (rl8_eq _ true _)
  · exact exec_modify8_reg (r := .a) rfl (rr8_eq _ true _)
  · exact exec_modify8_reg rfl (rlc8_eq _ false _)
  · exact exec_modify8_reg rfl (rrc8_eq _ false _)
  · exact exec_modify8_reg rfl (rl8_eq _ false _)
  · exact exec_modify8_reg rfl (rr8_eq _ false _)

/-- Settles O8: a register is modified by a shift, with the flags of `shiftResult`, or by SWAP. -/
theorem shiftsAndSwapWriteResultAndFlags : Obligations.ShiftsAndSwapWriteResultAndFlags :=
  fun _ _ => ⟨exec_modify8_reg rfl (sla8_eq _ _), exec_modify8_reg rfl (sra8_eq _ _), exec_modify8_reg rfl (swap8_eq _),
    exec_modify8_reg rfl (srl8_eq _ _)⟩

/-- Settles O9: the shape of BIT, with the flags of `bit8`. -/
theorem bitTestsOneBitAndWritesNoOperand : Obligations.BitTestsOneBitAndWritesNoOperand :=
  fun b r s => testBit_eq b (.reg r) s

/-- Settles O11: the operand is replaced by `res8` or `set8` of its value. -/
theorem resAndSetChangeExactlyOneBit : Obligations.ResAndSetChangeExactlyOneBit :=
  fun b loc s =>
    ⟨⟨res8 b (valueAt loc s), (exec_resAt b loc s).trans (modifyBits_at (res8 b) loc s), getLsbD_res8 b (valueAt loc s)⟩,
      set8 b (valueAt loc s), (exec_setAt b loc s).trans (modifyBits_at (set8 b) loc s), getLsbD_set8 b (valueAt loc s)⟩

/-- Settles O12: A takes the result of `daa8`. -/
theorem daaAdjustsAccumulator : Obligations.DaaAdjustsAccumulator :=
  fun s => (intoA_eq (daa8 s.f s.a) 1#16 s).trans (by rw [daa8_eq]; rfl)

/-- Settles O13: behind ADD and SUB of packed BCD, `daa8` finds the flags and the byte that `add8` and `sub8` left. -/
theorem daaRenormalizesBcd : Obligations.DaaRenormalizesBcd := by
  intro x y s hx hy ha hb
  have hadd := daa8_add8_bcd hx hy
  have hsub := daa8_sub8_bcd hx hy
  rw [← ha, ← hb] at hadd hsub
  refine ⟨⟨_, _, rfl, rfl, ?_⟩, _, _, rfl, rfl, ?_⟩
  · exact ⟨congrArg Result8.value hadd, congrArg (·.flags.c) hadd, congrArg (·.flags.z) hadd⟩
  · exact ⟨congrArg Result8.value hsub, congrArg (·.flags.c) hsub, congrArg (·.flags.z) hsub⟩

/-- Settles O20: a pop behind a push reads the bytes that the push wrote. -/
theorem pushAndPopMoveWordsThroughStack : Obligations.PushAndPopMoveWordsThroughStack := by
  refine fun q s => ⟨exec_pushPair q s, exec_popPair q s, fun hwf hhi hlo q' => ?_⟩
  refine ⟨_, _, exec_pushPair q s, exec_popPair q' _, ?_, ?_⟩
  · simp [stackTop_pushed hwf hhi hlo]
  · simp

/-- Settles O49: the four codes, flag by flag, and a conditional form takes its taken branch. -/
theorem conditionsReadZeroOrCarry : Obligations.ConditionsReadZeroOrCarry := by
  refine ⟨fun _ => ⟨rfl, rfl, rfl, rfl⟩, fun _ _ _ cc => ?_, fun _ _ hcc => ?_⟩
  · cases cc <;> rfl
  · exact ⟨fun _ => ⟨if_pos hcc, if_pos hcc⟩, fun _ => if_pos hcc, if_pos hcc⟩

end Sys2Proof.Proofs
end

section
/-! The obligation of the flag adjusts' family (44_misc_alu.md). -/

namespace Sys2Proof.Machine

theorem onlyFlags_eq (f : Flags) (len : Word) (s : State) :
    onlyFlags f len s = .next { s with f := f, pc := s.pc + len, signal := .none } := rfl

/-- R181 writes the complement as an exclusive or with 0xFF. -/
theorem exec_cpl (s : State) :
    exec .cpl s =
      .next { s with a := ~~~s.a, f := { s.f with n := true, h := true }, pc := s.pc + 1#16, signal := .none } :=
  have hnot : s.a ^^^ 0xFF#8 = ~~~s.a := BitVec.xor_allOnes
  (intoA_eq _ 1#16 s).trans (by rw [hnot])

end Sys2Proof.Machine

namespace Sys2Proof.Proofs

open Sys2Proof.Machine

/-- Settles O14: CPL takes A into its complement, SCF and CCF write their flags alone. -/
theorem cplScfAndCcfWriteTheirFlags : Obligations.CplScfAndCcfWriteTheirFlags :=
  fun s => ⟨exec_cpl s, onlyFlags_eq _ 1#16 s, onlyFlags_eq _ 1#16 s⟩

end Sys2Proof.Proofs
end

section
/-! SUPPORT. What the shapes of the 8-bit loads answer, in the words of the claims, and the I/O page as a high byte (20_memory.md R48). -/

namespace Sys2Proof.Machine

open Sys2Proof.Claims

/-- An I/O page address has high byte 0xFF: the base has no low byte that the operand could carry out of (D15). -/
theorem ioAddress_eq_mkWord (n : Byte) : ioAddress n = mkWord 0xFF#8 n := by
  have hn := n.isLt
  apply BitVec.eq_of_toNat_eq
  rw [ioAddress, BitVec.toNat_add, zext16_toNat, mkWord_toNat, BitVec.toNat_ofNat, BitVec.toNat_ofNat]
  omega

theorem loadValue_eq (r : Reg8) (v : Byte) (len : Word) (s : State) :
    loadValue r v len s = .next { s.setReg r v with pc := s.pc + len, signal := .none } := rfl

theorem loadFrom_eq_loaded (r : Reg8) (addr len : Word) (s : State) : loadFrom r addr len s = .next (loaded r addr len s) := rfl

theorem storeTo_eq_stored (addr : Word) (v : Byte) (len : Word) (s : State) :
    storeTo addr v len s = .next (stored addr v len s) := rfl

/-- The write of HL and the end of the step touch different fields, so their order is free, here and for the load. -/
theorem storeAThenHl_eq (newHl : Word) (s : State) :
    storeAThenHl newHl s = .next ((stored s.hl s.a 1#16 s).setPair .hl newHl) := rfl

theorem loadAThenHl_eq (newHl : Word) (s : State) :
    loadAThenHl newHl s = .next ((loaded .a s.hl 1#16 s).setPair .hl newHl) := rfl

/-- A load from the I/O page. -/
theorem loadFrom_ioAddress (r : Reg8) (n : Byte) (len : Word) (s : State) :
    loadFrom r (ioAddress n) len s = .next (loaded r (mkWord 0xFF#8 n) len s) := by
  rw [loadFrom_eq_loaded, ioAddress_eq_mkWord]

/-- A store to the I/O page. -/
theorem storeTo_ioAddress (n v : Byte) (len : Word) (s : State) :
    storeTo (ioAddress n) v len s = .next (stored (mkWord 0xFF#8 n) v len s) := by
  rw [storeTo_eq_stored, ioAddress_eq_mkWord]

end Sys2Proof.Machine
end

section
/-! The obligations of the 8-bit loads' family (45_loads8.md). -/

namespace Sys2Proof.Proofs

open Sys2Proof.Machine

/-- Settles O15: both rows load a value at hand, the old value of a register or the immediate byte. -/
theorem registerLoadsCopyTheValue : Obligations.RegisterLoadsCopyTheValue :=
  fun r s => ⟨fun r' => loadValue_eq r (s.getReg r') 1#16 s, fun n => loadValue_eq r n 2#16 s⟩

/-- Settles O16: each row loads from its address, the last two from the I/O page. -/
theorem memoryLoadsReadOneByte : Obligations.MemoryLoadsReadOneByte := by
  refine fun s => ⟨fun r => ?_, ?_, ?_, fun nn => ?_, fun n => ?_, ?_⟩
  · exact loadFrom_eq_loaded r s.hl 1#16 s
  · exact loadFrom_eq_loaded .a (s.getPair .bc) 1#16 s
  · exact loadFrom_eq_loaded .a (s.getPair .de) 1#16 s
  · exact loadFrom_eq_loaded .a nn 3#16 s
  · exact loadFrom_ioAddress .a n 2#16 s
  · exact loadFrom_ioAddress .a s.c 1#16 s

/-- Settles O17: each row stores its byte to its address, the last two to the I/O page. -/
theorem memoryStoresWriteOneByte : Obligations.MemoryStoresWriteOneByte := by
  refine fun s => ⟨fun r => ?_, fun n => ?_, ?_, ?_, fun nn => ?_, fun n => ?_, ?_⟩
  · exact storeTo_eq_stored s.hl (s.getReg r) 1#16 s
  · exact storeTo_eq_stored s.hl n 2#16 s
  · exact storeTo_eq_stored (s.getPair .bc) s.a 1#16 s
  · exact storeTo_eq_stored (s.getPair .de) s.a 1#16 s
  · exact storeTo_eq_stored nn s.a 3#16 s
  · exact storeTo_ioAddress n s.a 2#16 s
  · exact storeTo_ioAddress s.c s.a 1#16 s

/-- Settles O18: each row accesses the old HL, then HL takes its neighbour. -/
theorem postStepLoadsMoveHlByOne : Obligations.PostStepLoadsMoveHlByOne :=
  fun s => ⟨storeAThenHl_eq (s.hl + 1#16) s, storeAThenHl_eq (s.hl - 1#16) s, loadAThenHl_eq (s.hl + 1#16) s,
    loadAThenHl_eq (s.hl - 1#16) s⟩

end Sys2Proof.Proofs
end

section
/-! The obligation of the 16-bit loads' family (46_loads16_stack.md). -/

namespace Sys2Proof.Machine

theorem exec_ldRRNn (p : RR) (nn : Word) (s : State) :
    exec (.ldRRNn p nn) s = .next { s.setRR p nn with pc := s.pc + 3#16, signal := .none } := rfl

/-- The write nearer to `s` comes first, so the low byte goes out before the high byte (D12). -/
theorem exec_ldNnSp (nn : Word) (s : State) :
    exec (.ldNnSp nn) s =
      .next { busWrite (nn + 1#16) (hiByte s.sp) (busWrite nn (loByte s.sp) s) with pc := s.pc + 3#16, signal := .none } := rfl

/-- SP is written as one of the `RR`, from HL's two registers with H the high byte. -/
theorem exec_ldSpHl (s : State) :
    exec .ldSpHl s = .next { s with sp := mkWord s.h s.l, pc := s.pc + 1#16, signal := .none } := rfl

end Sys2Proof.Machine

namespace Sys2Proof.Proofs

open Sys2Proof.Machine

/-- Settles O19: each row is its operand's write and the end of the step. -/
theorem wordLoadsMoveTheWord : Obligations.WordLoadsMoveTheWord :=
  fun s => ⟨fun p nn => exec_ldRRNn p nn s, fun nn => exec_ldNnSp nn s, exec_ldSpHl s⟩

end Sys2Proof.Proofs
end

section
/-! SUPPORT. What the shapes of control transfer answer, in the words of the claims: a jump moves `pc`, a call pushes first, a return
pops first, and a condition chooses between two answers (47_control_flow.md R220 to R230). -/

namespace Sys2Proof.Machine

open Sys2Proof.Claims

theorem jumpTo_eq_goes (target : Word) (s : State) : jumpTo target s = .next (goes target .none s) := rfl

theorem callTo_eq_goes (target back : Word) (s : State) : callTo target back s = .next (goes target .none (pushed back s)) := by
  rw [callTo_eq, push16_eq_pushed]
  rfl

theorem returnWith_eq_goes (g : Signal) (s : State) : returnWith g s = .next (goes (stackTop s) g (popped s)) := rfl

/-- A conditional jump is one jump whose target the condition chooses (R221, R224). -/
theorem ite_jumpTo (cond : Bool) (taken untaken : Word) (s : State) :
    (if cond then jumpTo taken s else jumpTo untaken s) = .next (goes (if cond then taken else untaken) .none s) :=
  (apply_ite (jumpTo · s) (cond = true) taken untaken).symm

/-- A conditional call or return answers one of two states, so what its untaken form leaves is the second alone (R226, R228). -/
theorem ite_eq_next (cond : Bool) {x y : Answer} {t u : State} (hx : x = .next t) (hy : y = .next u) :
    (if cond then x else y) = .next (if cond then t else u) := by
  rw [hx, hy, apply_ite Host.Outcome.next]

theorem exec_callNn (nn : Word) (s : State) : exec (.callNn nn) s = .next (goes nn .none (pushed (s.pc + 3#16) s)) :=
  callTo_eq_goes nn (s.pc + 3#16) s

theorem exec_ret (s : State) : exec .ret s = .next (goes (stackTop s) .none (popped s)) :=
  returnWith_eq_goes .none s

/-- The target of RST, a product of words in the model, is the number `8 * t` of R230. -/
theorem exec_rst (t : BitVec 3) (s : State) :
    exec (.rst t) s = .next (goes (BitVec.ofNat 16 (8 * t.toNat)) .none (pushed (s.pc + 1#16) s)) := by
  rw [← rst_target]
  exact callTo_eq_goes _ (s.pc + 1#16) s

@[simp] theorem goes_pc (target : Word) (g : Signal) (s : State) : (goes target g s).pc = target := rfl

end Sys2Proof.Machine
end

section
/-! The obligations of the control flow family (47_control_flow.md). -/

namespace Sys2Proof.Proofs

open Sys2Proof.Machine

/-- Settles O52: the RET pops the link that the CALL pushed, and `sp` goes down and up by two. -/
theorem retUndoesCall : Obligations.RetUndoesCall := by
  refine fun s nn hwf hhi hlo => ⟨_, _, exec_callNn nn s, goes_pc _ _ _, ?_, exec_ret _, ?_, ?_⟩
  · rw [goes_sp, pushed_sp]
  · rw [goes_pc, stackTop_goes, stackTop_pushed hwf hhi hlo]
  · rw [goes_sp, popped_sp, goes_sp, pushed_sp, BitVec.sub_add_cancel]

/-- Settles O22: each row is one jump, the conditional ones to the target that the condition chooses. -/
theorem jumpsWriteOnlyPc : Obligations.JumpsWriteOnlyPc := by
  refine fun s => ⟨fun nn => ?_, fun cc nn => ?_, ?_, fun e => ?_, fun cc e => ?_⟩
  · exact jumpTo_eq_goes nn s
  · exact ite_jumpTo (condHolds s.f cc) nn (s.pc + 3#16) s
  · exact jumpTo_eq_goes s.hl s
  · exact jumpTo_eq_goes (relativeTarget e s) s
  · exact ite_jumpTo (condHolds s.f cc) (relativeTarget e s) (s.pc + 2#16) s

/-- Settles O23: a taken form pushes or pops the link, an untaken one is a jump past the instruction. -/
theorem callsAndReturnsUseTheStack : Obligations.CallsAndReturnsUseTheStack := by
  refine fun s => ⟨fun nn => exec_callNn nn s, fun cc nn => ?_, fun t => exec_rst t s, exec_ret s, fun cc => ?_, ?_⟩
  · exact ite_eq_next (condHolds s.f cc) (callTo_eq_goes nn (s.pc + 3#16) s) (jumpTo_eq_goes (s.pc + 3#16) s)
  · exact ite_eq_next (condHolds s.f cc) (returnWith_eq_goes .none s) (jumpTo_eq_goes (s.pc + 1#16) s)
  · exact returnWith_eq_goes .intEnable s

end Sys2Proof.Proofs
end

section
/-! SUPPORT. The one shape of the system rows, in the words of the claims (48_system.md R240 to R244). -/

namespace Sys2Proof.Machine

open Sys2Proof.Claims

theorem advance_eq_goes (len : Word) (g : Signal) (s : State) : advance len g s = .next (goes (s.pc + len) g s) := rfl

theorem exec_stop (s : State) : exec .stop s = .next (goes (s.pc + s.config.stopLen.toWord) .stop s) :=
  advance_eq_goes s.config.stopLen.toWord .stop s

end Sys2Proof.Machine
end

section
/-! The obligation of the system family (48_system.md). -/

namespace Sys2Proof.Proofs

open Sys2Proof.Machine

/-- Settles O24: each row is one `advance`, by one byte except for STOP, which goes on by either value of STOP_LEN. -/
theorem systemRowsOnlySignal : Obligations.SystemRowsOnlySignal := by
  refine fun s => ⟨?_, ?_, ?_, ?_, ?_⟩
  · exact advance_eq_goes 1#16 .none s
  · exact advance_eq_goes 1#16 .halt s
  · rw [exec_stop]
    cases s.config.stopLen with
    | one => rfl
    | two => rfl
  · exact advance_eq_goes 1#16 .intDisable s
  · exact advance_eq_goes 1#16 .intEnable s

end Sys2Proof.Proofs
end

section
/-! SUPPORT. The state after a fault, and the host's inputs in it (60_exceptions.md R251, R253). -/

namespace Sys2Proof.Machine

open Sys2Proof.Claims

/-! ## The state after a fault -/

theorem sameCore_busRead (addr : Word) (s : State) : sameCore s (busRead addr s).2 := ⟨fun _ => rfl, rfl, rfl, rfl⟩

theorem sameCore_trans {s t u : State} (h : sameCore s t) (k : sameCore t u) : sameCore s u := by
  obtain ⟨hreg, hf, hsp, hpc⟩ := h
  obtain ⟨kreg, kf, ksp, kpc⟩ := k
  exact ⟨fun r => (hreg r).trans (kreg r), hf.trans kf, hsp.trans ksp, hpc.trans kpc⟩

/-- A step that faults has read the byte at `pc` and done nothing else: "the byte after [it] is not read" (30_encoding.md R74). -/
theorem afterFault_of_fault {s : State} {f : Fault} (h : step s = .fault f) : s.afterFault = (busRead s.pc s).2 := by
  obtain ⟨hmem, _⟩ := step_eq_fault_iff.mp h
  obtain ⟨row, hentry, _⟩ := primaryTable_of_mem_illegalBytes hmem
  simp [State.afterFault, fetch, hentry]

theorem respond_step_of_fault {s : State} {f : Fault} (h : step s = .fault f) :
    respond .step s = some (s.afterFault, some (.fault (busValue s.pc s) false)) := by
  obtain ⟨_, rfl⟩ := step_eq_fault_iff.mp h
  simp [respond, h]

/-- `pc` stays on the illegal byte, so where that byte is plain memory the next step reads it again (60_exceptions.md R251). -/
theorem step_afterFault_of_plain {s : State} {f : Fault} (h : step s = .fault f) (hplain : plain s s.pc) :
    step s.afterFault = .fault f := by
  rw [afterFault_of_fault h, step_eq_fault_iff, busRead_pc, busValue_busRead _ hplain]
  exact step_eq_fault_iff.mp h

theorem faultedTimes_of_plain {s : State} {f : Fault} (h : step s = .fault f) (hplain : plain s s.pc) (k : Nat) :
    sameCore s (faultedTimes k s) ∧ step (faultedTimes k s) = .fault f := by
  induction k generalizing s with
  | zero => exact ⟨⟨fun _ => rfl, rfl, rfl, rfl⟩, h⟩
  | succ k ih =>
    have hread := afterFault_of_fault h
    have hplain' : plain s.afterFault s.afterFault.pc := by rwa [hread]
    obtain ⟨hcore, hstep⟩ := ih (step_afterFault_of_plain h hplain) hplain'
    refine ⟨?_, hstep⟩
    rw [hread] at hcore
    rw [faultedTimes, hread]
    exact sameCore_trans (sameCore_busRead s.pc s) hcore

/-! ## The input `skip` -/

theorem respond_skip (k : SkipLen) (s : State) :
    respond (.skip k) s = if s.config.hostSkip then some (s.skipBy k, none) else none := rfl

theorem exec_nop (s : State) : exec .nop s = .next (goes (s.pc + 1#16) .none s) := advance_eq_goes 1#16 .none s

/-- A jump and a skip to the same place differ in the signal only. -/
theorem sameCore_goes_skipBy_one (g : Signal) (s : State) : sameCore (goes (s.pc + 1#16) g s) (s.skipBy .one) :=
  ⟨fun _ => rfl, rfl, rfl, rfl⟩

end Sys2Proof.Machine
end

section
/-! SUPPORT. The decode record (60_exceptions.md R262), by the entry that the primary table has for the byte at `pc`. -/

namespace Sys2Proof.Machine

open Sys2Proof.Claims

theorem illegalByte_isSome_of_absent {op : Byte} {row : Instr} (h : primaryTable op = .absent row) :
    row.illegalByte.isSome = true := by
  unfold primaryTable primaryQuarter0 primaryQuarter1 primaryQuarter2 primaryQuarter3 at h
  repeat' split at h
  all_goals cases h
  all_goals rfl

/-- Only the eleven bytes have no entry (30_encoding.md R74). -/
theorem mem_illegalBytes_of_absent {op : Byte} {row : Instr} (h : primaryTable op = .absent row) : op ∈ illegalBytes := by
  obtain ⟨byte, hbyte⟩ := Option.isSome_iff_exists.mp (illegalByte_isSome_of_absent h)
  obtain ⟨hmem, henc, _⟩ := of_illegalByte_eq_some hbyte
  have hhead := head?_encode_row op 0#8 0#16
  rw [h, Entry.row, henc] at hhead
  obtain rfl := Option.some.inj hhead
  exact hmem

theorem mem_illegalBytes_iff {op : Byte} : op ∈ illegalBytes ↔ ∃ row, primaryTable op = .absent row :=
  ⟨fun h => (primaryTable_of_mem_illegalBytes h).imp fun _ hrow => hrow.1, fun ⟨_, h⟩ => mem_illegalBytes_of_absent h⟩

theorem primaryTable_eq_prefixMark_iff {op : Byte} : primaryTable op = .prefixMark ↔ op = 0xCB#8 :=
  ⟨eq_of_primaryTable_prefixMark, fun h => h ▸ rfl⟩

theorem decodeRecord_pc (s : State) : (decodeRecord s).pc = s.pc := by
  cases hentry : primaryTable (busValue s.pc s) <;> simp [decodeRecord, hentry]

theorem decodeRecord_prefixed_iff (s : State) : (decodeRecord s).prefixed = true ↔ busValue s.pc s = 0xCB#8 := by
  rw [← primaryTable_eq_prefixMark_iff]
  cases hentry : primaryTable (busValue s.pc s) <;> simp [decodeRecord, hentry]

theorem decodeRecord_bytes (s : State) :
    (decodeRecord s).bytes = (readBytes (if (decodeRecord s).prefixed then 2 else 1) s.pc s).1 := by
  cases hentry : primaryTable (busValue s.pc s) <;> simp [decodeRecord, hentry, readBytes]

theorem decodeRecord_form_eq_none_iff (s : State) : (decodeRecord s).form = none ↔ busValue s.pc s ∈ illegalBytes := by
  rw [mem_illegalBytes_iff]
  cases hentry : primaryTable (busValue s.pc s) <;> simp [decodeRecord, hentry]

theorem fetch_of_decodeRecord_form {s : State} {i : Instr} (h : (decodeRecord s).form = some i) : (fetch s).1 = i := by
  cases hentry : primaryTable (busValue s.pc s) with
  | absent row => simp [decodeRecord, hentry] at h
  | op | opN | opNN | prefixMark => simpa [decodeRecord, hentry] using h

end Sys2Proof.Machine
end

section
/-! The obligations of the exceptions' family (60_exceptions.md). -/

namespace Sys2Proof.Proofs

open Sys2Proof.Machine Sys2Proof.Claims

/-- Settles O53: a step that faults is one bus read at `pc`, and where the byte is plain the next step reads it again; the repetition is an
induction on the number of faults. -/
theorem faultWritesNothingAndRepeats : Obligations.FaultWritesNothingAndRepeats := by
  intro s f h
  refine ⟨respond_step_of_fault h, ?_⟩
  rw [afterFault_of_fault h]
  exact ⟨sameCore_busRead s.pc s, busRead_mem s.pc s, busRead_config s.pc s, busRead_signal s.pc s, busRead_bus s.pc s,
    faultedTimes_of_plain h⟩

/-- Settles O54: after a fault the state is that of one read at `pc`, and from it both a NOP and `skip(1)` move `pc` by one. -/
theorem skipAfterFaultSubstitutesNop : Obligations.SkipAfterFaultSubstitutesNop := by
  refine fun s => ⟨fun hoff k => ⟨hoff, ?_⟩, fun hon => ⟨?_, ?_⟩, fun f hfault => ?_⟩
  · simp [respond_skip, hoff]
  · rw [respond_skip, if_pos hon, State.skipBy]
  · rw [respond_skip, if_pos hon, State.skipBy]
  · rw [afterFault_of_fault hfault]
    exact ⟨_, exec_nop _, sameCore_goes_skipBy_one .none _, rfl, rfl⟩

/-- Settles O58: the record follows the entry of the primary table, and a step faults exactly where that entry is absent. -/
theorem decodeRecordDescribesTheStep : Obligations.DecodeRecordDescribesTheStep := by
  refine fun s => ⟨decodeRecord_pc s, decodeRecord_prefixed_iff s, decodeRecord_bytes s, ?_, fun i h => ?_⟩
  · simp [decodeRecord_form_eq_none_iff, step_eq_fault_iff]
  · rw [step, fetch_of_decodeRecord_form h]

end Sys2Proof.Proofs
end

section
/-! SUPPORT. Memory under a program's placement, the host's input reset, and how a run takes its steps (70_reset_and_hazards.md R280, R283,
R285). -/

namespace Sys2Proof.Machine

open Sys2Proof.Claims

/-! ## Placing a program -/

theorem placeBytes_wf {m : Memory} (h : m.wf = true) (addr : Word) (bytes : List Byte) : (placeBytes addr bytes m).wf = true := by
  induction bytes generalizing addr m with
  | nil => exact h
  | cons v rest ih => exact ih (Memory.wf_write h addr.isLt v) (addr + 1#16)

/-! ## The input `reset` -/

theorem respond_reset (s : State) : respond .reset s = some (s.resetInput, none) := rfl

/-- The core's state after a reset depends on RESET_STATE alone. -/
theorem sameCore_resetInput {s t : State} (h : s.config.resetState = t.config.resetState) :
    sameCore s.resetInput t.resetInput := by
  refine ⟨fun r => ?_, ?_, ?_, ?_⟩
  · cases r <;> simp [State.resetInput, State.getReg, h]
  all_goals simp [State.resetInput, h]

/-- The machine after power-on is one that has been reset (70_reset_and_hazards.md R280). -/
theorem resetInput_reset : State.reset.resetInput = State.reset := rfl

theorem reset_getReg (r : Reg8) : State.reset.getReg r = 0#8 := by
  cases r <;> rfl

/-! ## The steps of a run -/

theorem respond_step_of_next {s t : State} (h : step s = .next t) : respond .step s = some (t, some (.ok t.signal)) := by
  simp [respond, h]

section
variable {s t : State} {outcome : StepOutcome}

theorem runSteps_of_ends {e : RunEnd} (h : respond .step s = some (t, some outcome)) (hend : outcome.ends = some e) (fuel : Nat) :
    runSteps (fuel + 1) s = (t, some e) := by
  simp [runSteps, h, hend]

theorem runSteps_of_goes_on (h : respond .step s = some (t, some outcome)) (hend : outcome.ends = none) (fuel : Nat) :
    runSteps (fuel + 1) s = runSteps fuel t := by
  simp [runSteps, h, hend]

end

theorem ends_ok_of_halt_or_stop {g : Signal} (h : g = .halt ∨ g = .stop) : (StepOutcome.ok g).ends = some .success := by
  obtain rfl | rfl := h <;> rfl

theorem ends_ok_of_interrupt_signal_or_none {g : Signal} (h : g = .none ∨ g = .intEnable ∨ g = .intDisable) :
    (StepOutcome.ok g).ends = none := by
  obtain rfl | rfl | rfl := h <;> rfl

end Sys2Proof.Machine
end

section
/-! The obligations of the family of reset and hazards (70_reset_and_hazards.md). -/

namespace Sys2Proof.Proofs

open Sys2Proof.Machine

/-- Settles O37: the empty memory is canonical, and a program is placed by writes. -/
theorem resetMemoryIsCanonical : Obligations.ResetMemoryIsCanonical :=
  ⟨Memory.wf_nil, fun s _ _ h => placeBytes_wf h s.pc _⟩

/-- Settles O55: each field of the state after a reset is given by the definition of the input. -/
theorem resetInputLoadsResetState : Obligations.ResetInputLoadsResetState :=
  fun s => ⟨s.resetInput, respond_reset s, ⟨rfl, rfl, rfl, rfl, rfl, rfl, rfl, rfl, rfl, rfl⟩, rfl, rfl, rfl, rfl⟩

/-- Settles O56: the state after power-on has been reset, so every reset with the default RESET_STATE gives its registers. -/
theorem defaultResetIsAllZero : Obligations.DefaultResetIsAllZero := by
  refine ⟨reset_getReg, rfl, rfl, rfl, fun s hconfig => ⟨s.resetInput, respond_reset s, ?_⟩⟩
  have hreset : s.config.resetState = State.reset.config.resetState := congrArg Config.resetState hconfig
  exact resetInput_reset ▸ sameCore_resetInput hreset

/-- Settles O57: a step's outcome says whether the run goes on. -/
theorem runEndsOnHaltStopOrFault : Obligations.RunEndsOnHaltStopOrFault := by
  refine fun fuel s => ⟨fun t h => ⟨fun hsignal => ?_, fun hsignal => ?_⟩, fun f h => ?_⟩
  · exact runSteps_of_ends (respond_step_of_next h) (ends_ok_of_halt_or_stop hsignal) fuel
  · exact runSteps_of_goes_on (respond_step_of_next h) (ends_ok_of_interrupt_signal_or_none hsignal) fuel
  · exact runSteps_of_ends (respond_step_of_fault h) rfl fuel

end Sys2Proof.Proofs
end
